-- ==== Sys2Proof/Word.lean ====
section
/-! DEFINITION. The word types of the block (00_scope.md R7 to R9): frame bytes, the 16-bit registers, and the 32-bit
command and response words. All values are unsigned (R9). -/

namespace Sys2Proof

/-- One frame byte, `W_BYTE` = 8 bits (R7, R44). -/
abbrev Byte := BitVec 8

/-- A 16-bit value: the sum and the checksum field (`W_SUM`), the length and the count (`W_LEN`) (R7). -/
abbrev Half := BitVec 16

/-- A command word or a response word, `W_CMD` = `W_RSP` = 32 bits (R7). -/
abbrev Word := BitVec 32

end Sys2Proof
end

