-- ==== Sys2Proof/Config.lean ====
section
/-! DEFINITION. The named parameters of 00_scope.md R7, the block's identity (R2), the phases of a frame (R32), and the
model's two free values. -/

namespace Sys2Proof

/-- The block's position within a frame (10_state.md R32). -/
inductive Phase where
  /-- No frame is open. -/
  | idle
  /-- The next byte is summed. -/
  | data
  /-- The next byte is the high byte of the checksum field. -/
  | chkHi
  /-- The next byte is the low byte of the checksum field and completes the frame. -/
  | chkLo
  deriving DecidableEq, Repr, Inhabited

namespace Config

/-- The block's only identifier (R2). -/
def identifier : String := "checksum-16-adder"
/-- The edition of the spec this model is written from (R2). -/
def specEdition : Nat := 1
/-- `W_BYTE` (R7). -/
abbrev wByte : Nat := 8
/-- `W_SUM` (R7). -/
abbrev wSum : Nat := 16
/-- `W_LEN` (R7). -/
abbrev wLen : Nat := 16
/-- `LEN_MIN`: a frame holds at least its two checksum bytes (R7). -/
abbrev lenMin : Nat := 2
/-- `LEN_MAX` (R7). -/
abbrev lenMax : Nat := 65535
/-- `W_CMD` (R7). -/
abbrev wCmd : Nat := 32
/-- `W_RSP` (R7). -/
abbrev wRsp : Nat := 32
/-- `N_INST`: the instances of the block a model holds (R7, R132). -/
abbrev nInst : Nat := 1

/-- FREE VALUE (log 5). What the host sees of the response to a command that overlapped reset: "any value or absent"
(93_implementation_defined.md U11, 70_reset_and_hazards.md R141). Applied to the counter `State.draws`. -/
opaque overlapResponse : Nat → Option Word

/-- FREE VALUE (log 6). The phase shown by a block with `BUSY = 1` whose `CNT` and `LEN` fall under no line of R32; no
state reachable from reset has them so (R34). -/
opaque strayPhase : (cnt len : Half) → Phase

end Config
end Sys2Proof
end

