-- ==== Sys2Proof/SourceLine.lean ====
section
/-! DEFINITION. The assembler's source lines (30_encoding.md R62 to R66), after reading and before any range check. A
literal is any natural number here: WellFormed.lean holds the ranges, which an assembler refuses to leave (R62). -/

namespace Sys2Proof

/-- The eleven mnemonics of R56 and R62. -/
inductive Mnemonic where
  | nop | start | push | abort | clrerr | rdstat | rdacc | rdchk | rdcnt | rdlen | rderrw
  deriving DecidableEq, Repr

/-- One source line. -/
inductive SourceLine where
  /-- A line with nothing before its comment, or nothing at all (log 10). -/
  | blank
  /-- A mnemonic with at most one operand (R62). -/
  | command (m : Mnemonic) (operand : Option Nat)
  /-- `.word v`: the 32-bit word itself (R63). -/
  | word (v : Nat)
  /-- `PUSHW v`: a 16-bit value pushed big-endian (R64). -/
  | pushw (v : Nat)
  /-- `FRAME b0, …`: one complete frame, its checksum field the last two operands (R65). -/
  | frame (bytes : List Nat)
  /-- `FRAMECK b0, …`: a frame of these data bytes with a correct checksum field (R66). -/
  | frameck (bytes : List Nat)
  deriving DecidableEq, Repr

end Sys2Proof
end

