-- ==== Sys2Proof/Syntax.lean ====
section
/-! DEFINITION. The eleven commands of 30_encoding.md R56, one constructor per row of spec/opcode_table.json. The operands
have the widths R58 gives them, so an operand out of its field's range cannot be written. -/

namespace Sys2Proof

/-- A legal command (R56). The illegal words are no commands (R59): `decode` names why it rejects one. -/
inductive Instr where
  /-- `NOP`: do nothing (R110). -/
  | nop
  /-- `START len`: begin a frame of `len` bytes (R75). -/
  | start (len : Half)
  /-- `PUSH byte`: deliver the next byte of the frame (R87). -/
  | push (byte : Byte)
  /-- `ABORT`: abandon the frame and clear the result (R76). -/
  | abort
  /-- `CLRERR`: clear the error state (R111). -/
  | clrerr
  /-- `RDSTAT`: read STATUS (R101). -/
  | rdstat
  /-- `RDACC`: read the accumulator (R102). -/
  | rdacc
  /-- `RDCHK`: read the received checksum field (R103). -/
  | rdchk
  /-- `RDCNT`: read the byte count (R104). -/
  | rdcnt
  /-- `RDLEN`: read the frame length (R105). -/
  | rdlen
  /-- `RDERRW`: read the first faulting command word (R106). -/
  | rderrw
  deriving DecidableEq, Repr

end Sys2Proof
end

