-- ==== Sys2Proof/WellFormed.lean ====
section
/-! DEFINITION. What makes a command and a source line well-formed (30_encoding.md R58, R62 to R66). An `Instr` holds its
operands at their fields' widths, so its check refuses nothing: every `IMM` of `START` and every byte of `PUSH` is legal
encoding (R58). The checks that refuse are those on source lines, whose literals are unbounded. -/

namespace Sys2Proof

/-- R58: the operand of `START` is at most `LEN_MAX`, that of `PUSH` a byte. True of every `Instr`, by its type. -/
def Instr.wellFormed : Instr → Bool
  | .start len => decide (len.toNat ≤ Config.lenMax)
  | .push byte => decide (byte.toNat < 2 ^ Config.wByte)
  | .nop | .abort | .clrerr | .rdstat | .rdacc | .rdchk | .rdcnt | .rdlen | .rderrw => true

/-- A literal that fits one frame byte (R62, R65, R66). -/
def fitsByte (v : Nat) : Bool := decide (v < 2 ^ Config.wByte)

/-- R62: the operand a mnemonic takes, and its range. -/
def Mnemonic.operandOk : Mnemonic → Option Nat → Bool
  | .start, some v => decide (v ≤ Config.lenMax)
  | .start, none => false
  | .push, some v => fitsByte v
  | .push, none => false
  | .nop, v | .abort, v | .clrerr, v | .rdstat, v | .rdacc, v | .rdchk, v | .rdcnt, v | .rdlen, v | .rderrw, v =>
    v.isNone

/-- The lines an assembler accepts (R62 to R66); it refuses every other, and never truncates (R62). -/
def SourceLine.wellFormed : SourceLine → Bool
  | .blank => true
  | .command m v => m.operandOk v
  | .word v => decide (v < 2 ^ Config.wCmd)
  | .pushw v => decide (v < 2 ^ Config.wSum)
  | .frame bs => decide (Config.lenMin ≤ bs.length) && decide (bs.length ≤ Config.lenMax) && bs.all fitsByte
  | .frameck bs => decide (bs.length + 2 ≤ Config.lenMax) && bs.all fitsByte

end Sys2Proof
end

