-- ==== Sys2Proof/Decode.lean ====
section
/-! DEFINITION. The command encoding (30_encoding.md R55 to R61): the fields of a word, the decoder (total on all 2^32
words, naming why it rejects one), the encoder, the opcode table of R56, and the host's reading of a table word. -/

namespace Sys2Proof

/-- `OP`, bits 31:28 (R55). -/
def opField (w : Word) : BitVec 4 := w.extractLsb' 28 4
/-- `RSV`, bits 27:16 (R55). -/
def rsvField (w : Word) : BitVec 12 := w.extractLsb' 16 12
/-- `IMM`, bits 15:0 (R55). -/
def immField (w : Word) : Half := w.extractLsb' 0 16
/-- The operand of `PUSH`, `IMM[7:0]` (R58). -/
def immByte (imm : Half) : Byte := imm.extractLsb' 0 8
/-- `IMM[15:8]`, which `PUSH` must have 0 (R58). -/
def immHigh (imm : Half) : Byte := imm.extractLsb' 8 8

/-- Why a word is illegal. All three raise the same error, so the choice among them is not observable (R123). -/
inductive Illegal where
  /-- `RSV` is not 0 (R57). Safe: the word raises ILL, as the spec says. -/
  | reservedField
  /-- `OP` is 0xB to 0xF (R60). Safe: the word raises ILL, as the spec says. -/
  | reservedOpcode
  /-- A bit of `IMM` that must be 0 is not (R58). Safe: the word raises ILL, as the spec says. -/
  | unusedOperandBits
  deriving DecidableEq, Repr

/-- A command without an operand is legal only with `IMM = 0` (R58). -/
def withoutOperand (imm : Half) (i : Instr) : Except Illegal Instr :=
  if imm = 0 then .ok i else .error .unusedOperandBits

/-- The `case op of` of R59. -/
def decodeOp (op : BitVec 4) (imm : Half) : Except Illegal Instr :=
  match op.toNat with
  | 0 => withoutOperand imm .nop
  | 1 => .ok (.start imm)
  | 2 => if immHigh imm = 0 then .ok (.push (immByte imm)) else .error .unusedOperandBits
  | 3 => withoutOperand imm .abort
  | 4 => withoutOperand imm .clrerr
  | 5 => withoutOperand imm .rdstat
  | 6 => withoutOperand imm .rdacc
  | 7 => withoutOperand imm .rdchk
  | 8 => withoutOperand imm .rdcnt
  | 9 => withoutOperand imm .rdlen
  | 10 => withoutOperand imm .rderrw
  | _ => .error .reservedOpcode

/-- `decode` of R59, in its order: `RSV`, then `OP`, then `IMM` (R123). -/
def decode (w : Word) : Except Illegal Instr :=
  if rsvField w = 0 then decodeOp (opField w) (immField w) else .error .reservedField

/-- A word from its fields, `OP : RSV : IMM` with `RSV = 0` (R55, R57). -/
def commandWord (op : BitVec 4) (imm : Half) : Word := op ++ 0#12 ++ imm

/-- The word of a command (R56, R62: `START n` is `0x10000000 | n`, `PUSH b` is `0x20000000 | b`). -/
def encode : Instr → Word
  | .nop => commandWord 0x0#4 0
  | .start len => commandWord 0x1#4 len
  | .push byte => commandWord 0x2#4 (0#8 ++ byte)
  | .abort => commandWord 0x3#4 0
  | .clrerr => commandWord 0x4#4 0
  | .rdstat => commandWord 0x5#4 0
  | .rdacc => commandWord 0x6#4 0
  | .rdchk => commandWord 0x7#4 0
  | .rdcnt => commandWord 0x8#4 0
  | .rdlen => commandWord 0x9#4 0
  | .rderrw => commandWord 0xA#4 0

/-- The mnemonic of a command. -/
def Instr.mnemonic : Instr → Mnemonic
  | .nop => .nop
  | .start _ => .start
  | .push _ => .push
  | .abort => .abort
  | .clrerr => .clrerr
  | .rdstat => .rdstat
  | .rdacc => .rdacc
  | .rdchk => .rdchk
  | .rdcnt => .rdcnt
  | .rdlen => .rdlen
  | .rderrw => .rderrw

/-- One row of the opcode map (R56). -/
structure OpcodeRow where
  mnemonic : Mnemonic
  matchBits : Word
  maskBits : Word
  deriving DecidableEq, Repr

/-- The opcode map of R56, as the spec writes it. -/
def opcodeTable : List OpcodeRow :=
  [ ⟨.nop, 0x00000000#32, 0xFFFFFFFF#32⟩,
    ⟨.start, 0x10000000#32, 0xFFFF0000#32⟩,
    ⟨.push, 0x20000000#32, 0xFFFFFF00#32⟩,
    ⟨.abort, 0x30000000#32, 0xFFFFFFFF#32⟩,
    ⟨.clrerr, 0x40000000#32, 0xFFFFFFFF#32⟩,
    ⟨.rdstat, 0x50000000#32, 0xFFFFFFFF#32⟩,
    ⟨.rdacc, 0x60000000#32, 0xFFFFFFFF#32⟩,
    ⟨.rdchk, 0x70000000#32, 0xFFFFFFFF#32⟩,
    ⟨.rdcnt, 0x80000000#32, 0xFFFFFFFF#32⟩,
    ⟨.rdlen, 0x90000000#32, 0xFFFFFFFF#32⟩,
    ⟨.rderrw, 0xA0000000#32, 0xFFFFFFFF#32⟩ ]

/-- "A word is the named command exactly when `(w & mask) == match`" (R56). -/
def OpcodeRow.names (r : OpcodeRow) (w : Word) : Bool := (w &&& r.maskBits) == r.matchBits

/-- The command word the host means by `nbits` bits of a table row, bit 0 the least significant; the bits above `nbits`
are 0. The port takes the word whole, so no byte order enters (20_memory.md R45). -/
def tableWord (nbits w : Nat) : Word := BitVec.ofNat 32 (w % 2 ^ nbits)

/-- The command this decoder reads from a table word. No command is longer than one word (R55). -/
def decodeTableWord (nbits w : Nat) : Option Instr :=
  if nbits ≤ Config.wCmd then (decode (tableWord nbits w)).toOption else none

end Sys2Proof
end

