-- ==== Sys2Proof/Machine/State.lean ====
section
/-! DEFINITION. The block's twelve state elements (10_state.md R20), its interface as plain data (R37), the state after
reset (R39, R140), the state at power-up (70_reset_and_hazards.md R142), and the ways a step can stop. -/

namespace Sys2Proof.Machine

/-- The architectural state: "exactly the twelve elements below" (R20). The spec's `MATCH` is the field `matched`. -/
structure Block where
  /-- `ACC`: the running sum of the frame's data bytes (R21). -/
  acc : Half
  /-- `CNT`: the bytes of the frame pushed so far (R22). -/
  cnt : Half
  /-- `LEN`: the frame's length, checksum field included (R23). -/
  len : Half
  /-- `CHK`: the received checksum field (R24). -/
  chk : Half
  /-- `BUSY`: a frame is in progress (R25). -/
  busy : Bool
  /-- `DONE`: the last byte was pushed and the result is valid (R26). -/
  done : Bool
  /-- `MATCH`: the completed frame's sum equals its checksum field (R27). -/
  matched : Bool
  /-- `ERR_ILL`: sticky, an illegal command word was received (R28). -/
  errIll : Bool
  /-- `ERR_LEN`: sticky, `START` was given a length below 2 (R28). -/
  errLen : Bool
  /-- `ERR_OVR`: sticky, `PUSH` was received with no frame in progress (R28). -/
  errOvr : Bool
  /-- `ECODE`: the code of the first error since reset or `CLRERR` (R29). -/
  ecode : BitVec 4
  /-- `ERRW`: the command word of that error (R30). -/
  errw : Word
  deriving DecidableEq, Repr

/-- What the host presents at the block's inputs `cmd` and `rst` (R37). -/
inductive Input where
  /-- A command word accepted on `cmd`. -/
  | command (w : Word)
  /-- The reset event on `rst` (R140), between two commands (R141). -/
  | reset
  /-- A command word accepted on `cmd` that the reset event overlaps (R141). -/
  | commandCutByReset (w : Word)
  deriving DecidableEq, Repr

/-- The machine: the block and its interface. -/
structure State where
  /-- The twelve elements of R20. -/
  block : Block
  /-- Whether a reset event has happened since power-up (R142). -/
  wasReset : Bool
  /-- What the host will present, in acceptance order, the next first (R37, R52; log 2). -/
  inputs : List Input
  /-- The words issued on `rsp`, in order, the oldest first (R37, R52; log 3). -/
  responses : List Word
  /-- How many free values were drawn (log 5). -/
  draws : Nat
  deriving DecidableEq, Repr

/-- The reset value of every element (R39). -/
def Block.reset : Block where
  acc := 0x0000#16
  cnt := 0x0000#16
  len := 0x0000#16
  chk := 0x0000#16
  busy := false
  done := false
  matched := false
  errIll := false
  errLen := false
  errOvr := false
  ecode := 0x0#4
  errw := 0x00000000#32

/-- The machine right after the reset event that follows power-up (R140), before the host presents anything. -/
def State.reset : State where
  block := Block.reset
  wasReset := true
  inputs := []
  responses := []
  draws := 0

/-- The machine after power-up and before the first reset: any value of every element is possible, so the block is an
argument (the parameter `pre_reset_state` of D18; R142). -/
def State.powerUp (pre : Block) : State where
  block := pre
  wasReset := false
  inputs := []
  responses := []
  draws := 0

/-- No step of this machine faults: the block has no trap, it records an error and goes on (60_exceptions.md R121, R127). -/
inductive Fault where
  deriving DecidableEq, Repr

/-- Why a step is refused. -/
inductive Refusal where
  /-- Raised by an arm of `exec` that has no meaning; no arm is so. Safe: it stops where the hardware goes on. -/
  | notModelled (mnemonic : String)
  /-- Raised by a step that takes a command before the first reset: "A model must not give a command a meaning in that
  state", it "refuses any command that precedes the first reset" (R142). Safe: it stops where the hardware goes on. -/
  | commandBeforeFirstReset
  deriving DecidableEq, Repr

end Sys2Proof.Machine
end

