-- ==== Sys2Proof/Machine/Operands.lean ====
section
/-! DEFINITION. How a command uses its operand: the legal lengths of `START` (40_frame_control.md R75, 60_exceptions.md
R117), the byte of `PUSH` as a summand (20_memory.md R44) and as half of the checksum field (20_memory.md R43), and the
place of a byte within its frame (10_state.md R32, 41_accumulate.md R87). -/

namespace Sys2Proof.Machine

/-- A length that `START` accepts: at least `LEN_MIN` (R75, R117). -/
def lengthLegal (len : Half) : Bool := decide (Config.lenMin ≤ len.toNat)

/-- `ACC +16 zext_16(b)` (R44, R87, R88). -/
def addByte (acc : Half) (byte : Byte) : Half := acc + byte.setWidth 16

/-- `b : CHK[7:0]`, the high half of the field written (R87, R43). -/
def withHighByte (chk : Half) (byte : Byte) : Half := byte ++ chk.extractLsb' 0 8

/-- `CHK[15:8] : b`, the low half of the field written (R87, R43). -/
def withLowByte (chk : Half) (byte : Byte) : Half := chk.extractLsb' 8 8 ++ byte

/-- `CNT < LEN - 2` in unbounded integers (R87): the next byte is a data byte. -/
def nextIsData (cnt len : Half) : Bool := decide (cnt.toNat + 2 < len.toNat)

/-- `CNT == LEN - 2` in unbounded integers (R87): the next byte is the field's high byte. -/
def nextIsHigh (cnt len : Half) : Bool := decide (cnt.toNat + 2 = len.toNat)

/-- `CNT == LEN - 1` in unbounded integers (R32): the next byte is the field's low byte. -/
def nextIsLow (cnt len : Half) : Bool := decide (cnt.toNat + 1 = len.toNat)

end Sys2Proof.Machine
end

