-- ==== Sys2Proof/Machine/Flags.lean ====
section
/-! DEFINITION. The views of the block's flags: the phase (10_state.md R32), the STATUS word (R31), the four level outputs
(R38), and the three error causes with their codes (60_exceptions.md R115). -/

namespace Sys2Proof.Machine

/-- The two bits of `PHASE` (R32). -/
def phaseCode : Phase → BitVec 2
  | .idle => 0b00#2
  | .data => 0b01#2
  | .chkHi => 0b10#2
  | .chkLo => 0b11#2

/-- `PHASE` (R32). Outside the rule's four lines the phase is a free value (log 6). -/
def Block.phase (b : Block) : Phase :=
  if b.busy = false then .idle
  else if nextIsData b.cnt b.len then .data
  else if nextIsHigh b.cnt b.len then .chkHi
  else if nextIsLow b.cnt b.len then .chkLo
  else Config.strayPhase b.cnt b.len

/-- `STATUS = zext_32(ECODE : PHASE : ERR_OVR : ERR_LEN : ERR_ILL : MATCH : DONE : BUSY)` (R31). -/
def Block.status (b : Block) : Word :=
  (b.ecode ++ phaseCode b.phase ++ BitVec.ofBool b.errOvr ++ BitVec.ofBool b.errLen ++ BitVec.ofBool b.errIll ++
    BitVec.ofBool b.matched ++ BitVec.ofBool b.done ++ BitVec.ofBool b.busy).setWidth 32

/-- `busy_o` (R38). -/
def Block.busyOut (b : Block) : Bool := b.busy
/-- `done_o` (R38). -/
def Block.doneOut (b : Block) : Bool := b.done
/-- `ok_o = DONE & MATCH` (R38). -/
def Block.okOut (b : Block) : Bool := b.done && b.matched
/-- `err_o = ERR_ILL | ERR_LEN | ERR_OVR` (R38). -/
def Block.errOut (b : Block) : Bool := b.errIll || b.errLen || b.errOvr

/-- The three errors the block raises (R115). -/
inductive ErrorCause where
  /-- An illegal command word (R116). -/
  | ill
  /-- A `START` with a length below 2 (R117). -/
  | len
  /-- A `PUSH` with no frame open (R118). -/
  | ovr
  deriving DecidableEq, Repr

/-- The code of an error (R115). -/
def errorCode : ErrorCause → BitVec 4
  | .ill => 1#4
  | .len => 2#4
  | .ovr => 3#4

/-- The `case code of` of R121: the flag of an error set. -/
def Block.setErrorFlag (b : Block) : ErrorCause → Block
  | .ill => { b with errIll := true }
  | .len => { b with errLen := true }
  | .ovr => { b with errOvr := true }

end Sys2Proof.Machine
end

