-- ==== Sys2Proof/Machine/Ops.lean ====
section
/-! DEFINITION. The operations the commands share: responding (42_readback.md R100), recording an error
(60_exceptions.md R121, the block's trap entry) with clearing the record beside it (R126, R111), the parts of a frame's
life (40_frame_control.md R75, R76; 41_accumulate.md R87), and reset (70_reset_and_hazards.md R140, R141).
Every operation on the block reads the state before it and gives the whole state after it (00_scope.md R10). -/

namespace Sys2Proof.Machine

/-- `respond(v)` (R10): the response placed on `rsp`, after those issued before it (R37). -/
def State.respond (s : State) (v : Word) : State := { s with responses := s.responses ++ [v] }

/-- A command's writes, then `respond(STATUS')` of the state after them (R100). -/
def State.effect (s : State) (b : Block) : State := { s with block := b, responses := s.responses ++ [b.status] }

/-- The error record of R121: the flag, and the code and word if no error was recorded before. -/
def Block.recordError (b : Block) (c : ErrorCause) (w : Word) : Block :=
  if b.ecode = 0 then { b.setErrorFlag c with ecode := errorCode c, errw := w } else b.setErrorFlag c

/-- `raise Error(code, w)` (R121): the record, then the response. Nothing else is written (R122). -/
def raiseError (c : ErrorCause) (w : Word) (s : State) : State := s.effect (s.block.recordError c w)

/-- The writes of `CLRERR` (R111): the only command that clears the error record (R126). -/
def Block.clearErrors (b : Block) : Block :=
  { b with errIll := false, errLen := false, errOvr := false, ecode := 0x0#4, errw := 0x00000000#32 }

/-- An illegal word executes as `raise Error(1, w)` (R116). -/
def execIllegal (w : Word) (s : State) : Host.Outcome State Fault Refusal := .next (raiseError .ill w s)

/-- The writes of a legal `START n` (R75). -/
def Block.openFrame (b : Block) (n : Half) : Block :=
  { b with acc := 0x0000#16, cnt := 0x0000#16, len := n, chk := 0x0000#16, busy := true, done := false, matched := false }

/-- The writes of `ABORT` (R76). -/
def Block.abandonFrame (b : Block) : Block := { b with busy := false, done := false, matched := false }

/-- A data byte (R87, phase DATA). -/
def Block.takeData (b : Block) (byte : Byte) : Block := { b with acc := addByte b.acc byte, cnt := b.cnt + 1 }

/-- The field's high byte (R87, phase CHK_HI). -/
def Block.takeHigh (b : Block) (byte : Byte) : Block := { b with chk := withHighByte b.chk byte, cnt := b.cnt + 1 }

/-- The field's low byte, which completes the frame and compares (R87, phase CHK_LO; R27, R90). -/
def Block.takeLow (b : Block) (byte : Byte) : Block :=
  { b with
    chk := withLowByte b.chk byte
    matched := b.acc == withLowByte b.chk byte
    done := true
    busy := false
    cnt := b.cnt + 1 }

/-- The writes of a `PUSH` with a frame open (R87): the pseudocode's `if`, `else if`, `else`. Where R32 names no phase, the
last branch is taken, as the pseudocode reads (log 7). -/
def Block.takeByte (b : Block) (byte : Byte) : Block :=
  if nextIsData b.cnt b.len then b.takeData byte
  else if nextIsHigh b.cnt b.len then b.takeHigh byte
  else b.takeLow byte

/-- The reset event (R140): every element at its reset value, and no response. -/
def State.applyReset (s : State) : State := { s with block := Block.reset, wasReset := true }

/-- A command that the reset event overlaps (R141): either it took effect and reset overwrote that, or it took none, so the
elements are at their reset values either way; its response is a free value or absent (log 5). -/
def State.cutByReset (s : State) : State :=
  { s with
    block := Block.reset
    wasReset := true
    responses := s.responses ++ (Config.overlapResponse s.draws).toList
    draws := s.draws + 1 }

end Sys2Proof.Machine
end

