-- ==== Sys2Proof/Machine/Accumulate.lean ====
section
/-! DEFINITION. The data command `PUSH` (41_accumulate.md R87). -/

namespace Sys2Proof.Machine

/-- `PUSH byte` (R87, R118). -/
def execPush (byte : Byte) (s : State) : Host.Outcome State Fault Refusal :=
  if s.block.busy then .next (s.effect (s.block.takeByte byte)) else .next (raiseError .ovr (encode (.push byte)) s)

end Sys2Proof.Machine
end

