-- ==== Sys2Proof/Machine/FrameControl.lean ====
section
/-! DEFINITION. The frame control commands `START` and `ABORT` (40_frame_control.md). The command word that an error
records is the command's own word: a legal command has exactly one (30_encoding.md R56). -/

namespace Sys2Proof.Machine

/-- `START len` (R75, R117). -/
def execStart (len : Half) (s : State) : Host.Outcome State Fault Refusal :=
  if lengthLegal len then .next (s.effect (s.block.openFrame len)) else .next (raiseError .len (encode (.start len)) s)

/-- `ABORT` (R76). -/
def execAbort (s : State) : Host.Outcome State Fault Refusal := .next (s.effect s.block.abandonFrame)

end Sys2Proof.Machine
end

