-- ==== Sys2Proof/Machine/Maintenance.lean ====
section
/-! DEFINITION. The maintenance commands `NOP` and `CLRERR` (43_maintenance.md). -/

namespace Sys2Proof.Machine

/-- `NOP` (R110): no write, so `STATUS' = STATUS`. -/
def execNop (s : State) : Host.Outcome State Fault Refusal := .next (s.effect s.block)

/-- `CLRERR` (R111). -/
def execClrerr (s : State) : Host.Outcome State Fault Refusal := .next (s.effect s.block.clearErrors)

end Sys2Proof.Machine
end

