-- ==== Sys2Proof/Machine/Readback.lean ====
section
/-! DEFINITION. The read-back commands (42_readback.md R101 to R106). Each responds with the value it names, zero-extended
to 32 bits, and writes nothing (R100). -/

namespace Sys2Proof.Machine

/-- `RDSTAT` (R101). -/
def execRdstat (s : State) : Host.Outcome State Fault Refusal := .next (s.respond s.block.status)

/-- `RDACC` (R102). -/
def execRdacc (s : State) : Host.Outcome State Fault Refusal := .next (s.respond (s.block.acc.setWidth 32))

/-- `RDCHK` (R103). -/
def execRdchk (s : State) : Host.Outcome State Fault Refusal := .next (s.respond (s.block.chk.setWidth 32))

/-- `RDCNT` (R104). -/
def execRdcnt (s : State) : Host.Outcome State Fault Refusal := .next (s.respond (s.block.cnt.setWidth 32))

/-- `RDLEN` (R105). -/
def execRdlen (s : State) : Host.Outcome State Fault Refusal := .next (s.respond (s.block.len.setWidth 32))

/-- `RDERRW` (R106). -/
def execRderrw (s : State) : Host.Outcome State Fault Refusal := .next (s.respond s.block.errw)

end Sys2Proof.Machine
end

