-- ==== Sys2Proof/Machine/Dispatch.lean ====
section
/-! DEFINITION. One arm per command. -/

namespace Sys2Proof.Machine

def exec (i : Instr) (s : State) : Host.Outcome State Fault Refusal :=
  match i with
  | .nop => Sys2Proof.Machine.execNop s
  | .start len => Sys2Proof.Machine.execStart len s
  | .push byte => Sys2Proof.Machine.execPush byte s
  | .abort => Sys2Proof.Machine.execAbort s
  | .clrerr => Sys2Proof.Machine.execClrerr s
  | .rdstat => Sys2Proof.Machine.execRdstat s
  | .rdacc => Sys2Proof.Machine.execRdacc s
  | .rdchk => Sys2Proof.Machine.execRdchk s
  | .rdcnt => Sys2Proof.Machine.execRdcnt s
  | .rdlen => Sys2Proof.Machine.execRdlen s
  | .rderrw => Sys2Proof.Machine.execRderrw s

end Sys2Proof.Machine
end

