-- ==== Sys2Proof/Machine/Port.lean ====
section
/-! DEFINITION. What the block does with what stands at its inputs (10_state.md R37): an accepted command word, a reset
event, a command that reset overlaps, or nothing. -/

namespace Sys2Proof.Machine

/-- An accepted word: the command it decodes to, or the ILL error (30_encoding.md R59, 60_exceptions.md R116). -/
def acceptWord (w : Word) (s : State) : Host.Outcome State Fault Refusal :=
  match decode w with
  | .ok i => exec i s
  | .error _ => execIllegal w s

/-- One input event, already taken from the port. A command before the first reset is refused (70_reset_and_hazards.md
R142). One that reset overlaps is not: the reset event sets every element whatever the state before it (R140). -/
def takeInput (e : Input) (s : State) : Host.Outcome State Fault Refusal :=
  match e with
  | .command w => if s.wasReset then acceptWord w s else .refused .commandBeforeFirstReset
  | .reset => .next s.applyReset
  | .commandCutByReset _ => .next s.cutByReset

/-- The next event in acceptance order (20_memory.md R52). With nothing presented the block waits, unchanged, for as long as
that lasts: there is no timeout (60_exceptions.md R120, 70_reset_and_hazards.md R148). -/
def takeNext (s : State) : Host.Outcome State Fault Refusal :=
  match s.inputs with
  | [] => .next s
  | e :: rest => takeInput e { s with inputs := rest }

/-- A command word put before everything else the host will present. -/
def State.offer (s : State) (w : Word) : State := { s with inputs := .command w :: s.inputs }

end Sys2Proof.Machine
end

