-- ==== Sys2Proof/Machine/Step.lean ====
section
/-! DEFINITION. The step function (00_scope.md R11). -/

namespace Sys2Proof.Machine

/-- One step: the block takes what the host presents next. -/
def step (s : State) : Host.Outcome State Fault Refusal := takeNext s

/-- The state with a table word presented next, so that the very next step takes it. The block fetches nothing
(20_memory.md R54): this stands for the host offering the word on `cmd` (log 2). -/
def State.withFetchWord (s : State) (nbits w : Nat) : State := s.offer (tableWord nbits w)

end Sys2Proof.Machine
end

