-- ==== Sys2Proof/Machine/Checksum.lean ====
section
/-! DEFINITION. The reference functions of 41_accumulate.md: the checksum of a byte sequence (R85), the checksum field of a
frame (R43) and the validity of a frame (R86). No command calls them: R93 says the commands compute them. -/

namespace Sys2Proof.Machine

/-- The exact integer sum of bytes, each unsigned (R85, R44). -/
def byteSum (bs : List Byte) : Nat := (bs.map BitVec.toNat).sum

/-- `CS16` (R85): the byte sum modulo 65536. -/
def cs16 (bs : List Byte) : Half := BitVec.ofNat 16 (byteSum bs % 65536)

/-- `f[n-2] * 256 + f[n-1]`, the big-endian value of two bytes (R43, R86). -/
def fieldValue (high low : Byte) : Half := BitVec.ofNat 16 (high.toNat * 256 + low.toNat)

/-- `Validate(f, n)` with `n` the frame's length (R86): the sum of all bytes but the last two against the field they form.
Not defined for fewer than two bytes (R86, R117). -/
def validate (f : List Byte) : Option Bool :=
  match f.drop (f.length - 2) with
  | [high, low] => some (cs16 (f.take (f.length - 2)) == fieldValue high low)
  | _ => none

end Sys2Proof.Machine
end

