-- ==== Sys2Proof/Machine/Asm.lean ====
section
/-! DEFINITION. The assembler and the disassembler (30_encoding.md R62 to R66), over lists of characters: reading a source
line, refusing what is out of range, expanding the pseudo-instructions, and printing a word. -/

namespace Sys2Proof.Machine

/-- `PUSHW v16` (R64): the high byte first. -/
def pushwCommands (v : Half) : List Instr := [.push (v.extractLsb' 8 8), .push (v.extractLsb' 0 8)]

/-- `FRAME b0, …` (R65): `START n`, then every byte. -/
def frameCommands (bytes : List Byte) : List Instr := .start (BitVec.ofNat 16 bytes.length) :: bytes.map .push

/-- `FRAMECK b0, …` (R66): `START k+2`, the data bytes, then their checksum by `PUSHW`. -/
def frameckCommands (bytes : List Byte) : List Instr :=
  .start (BitVec.ofNat 16 (bytes.length + 2)) :: (bytes.map .push ++ pushwCommands (cs16 bytes))

/-- The command of a mnemonic and its operand's value, which the range check has passed (R62). -/
def commandOf (m : Mnemonic) (v : Nat) : Instr :=
  match m with
  | .nop => .nop
  | .start => .start (BitVec.ofNat 16 v)
  | .push => .push (BitVec.ofNat 8 v)
  | .abort => .abort
  | .clrerr => .clrerr
  | .rdstat => .rdstat
  | .rdacc => .rdacc
  | .rdchk => .rdchk
  | .rdcnt => .rdcnt
  | .rdlen => .rdlen
  | .rderrw => .rderrw

/-- The words of a line that is well-formed. -/
def lineWords : SourceLine → List Word
  | .blank => []
  | .command m v => [encode (commandOf m (v.getD 0))]
  | .word v => [BitVec.ofNat 32 v]
  | .pushw v => (pushwCommands (BitVec.ofNat 16 v)).map encode
  | .frame bs => (frameCommands (bs.map (BitVec.ofNat 8))).map encode
  | .frameck bs => (frameckCommands (bs.map (BitVec.ofNat 8))).map encode

/-- An assembler refuses a line with a literal out of range "rather than truncating it" (R62). -/
def assemble (l : SourceLine) : Option (List Word) := if l.wellFormed then some (lineWords l) else none

/-- White space between the parts of a line (log 10). -/
def isGap (c : Char) : Bool := c == ' ' || c == '\t'

/-- The text without the white space at its two ends. -/
def trimGaps (cs : List Char) : List Char := ((cs.dropWhile isGap).reverse.dropWhile isGap).reverse

/-- Everything before the comment: "`;` starts a comment that runs to the end of the line" (R62). -/
def dropComment (cs : List Char) : List Char := cs.takeWhile (· != ';')

/-- The value of a decimal digit. -/
def decDigit (c : Char) : Option Nat :=
  if '0'.toNat ≤ c.toNat && c.toNat ≤ '9'.toNat then some (c.toNat - '0'.toNat) else none

/-- The value of a hexadecimal digit, of either case (log 10). -/
def hexDigit (c : Char) : Option Nat :=
  if 'A'.toNat ≤ c.toNat && c.toNat ≤ 'F'.toNat then some (c.toNat - 'A'.toNat + 10)
  else if 'a'.toNat ≤ c.toNat && c.toNat ≤ 'f'.toNat then some (c.toNat - 'a'.toNat + 10)
  else decDigit c

/-- The value of digits in a base, most significant first, after those that gave `acc`. -/
def readDigits (base : Nat) (digit : Char → Option Nat) : Nat → List Char → Option Nat
  | acc, [] => some acc
  | acc, c :: cs =>
    match digit c with
    | some d => readDigits base digit (acc * base + d) cs
    | none => none

/-- An unsigned literal, decimal or, after `0x`, hexadecimal (R62, R8). -/
def readLiteral (cs : List Char) : Option Nat :=
  match cs with
  | [] => none
  | '0' :: 'x' :: d :: ds => readDigits 16 hexDigit 0 (d :: ds)
  | d :: ds => readDigits 10 decDigit 0 (d :: ds)

/-- The parts of a text between its commas. -/
def splitCommas : List Char → List (List Char)
  | [] => [[]]
  | c :: cs =>
    match splitCommas cs with
    | [] => [[c]]
    | part :: parts => if c == ',' then [] :: part :: parts else (c :: part) :: parts

/-- Literals separated by commas, each with white space around it or not; the empty text holds none (R65, R66). -/
def readLiterals (cs : List Char) : Option (List Nat) :=
  if cs.isEmpty then some [] else (splitCommas cs).mapM (fun part => readLiteral (trimGaps part))

/-- The letters of each mnemonic (R62). -/
def mnemonicText : Mnemonic → List Char
  | .nop => ['N', 'O', 'P']
  | .start => ['S', 'T', 'A', 'R', 'T']
  | .push => ['P', 'U', 'S', 'H']
  | .abort => ['A', 'B', 'O', 'R', 'T']
  | .clrerr => ['C', 'L', 'R', 'E', 'R', 'R']
  | .rdstat => ['R', 'D', 'S', 'T', 'A', 'T']
  | .rdacc => ['R', 'D', 'A', 'C', 'C']
  | .rdchk => ['R', 'D', 'C', 'H', 'K']
  | .rdcnt => ['R', 'D', 'C', 'N', 'T']
  | .rdlen => ['R', 'D', 'L', 'E', 'N']
  | .rderrw => ['R', 'D', 'E', 'R', 'R', 'W']

/-- Every mnemonic, to look one up by its letters. -/
def allMnemonics : List Mnemonic :=
  [.nop, .start, .push, .abort, .clrerr, .rdstat, .rdacc, .rdchk, .rdcnt, .rdlen, .rderrw]

/-- "Mnemonics are case-insensitive" (R62): the capital of a letter, any other character as it is. -/
def capital (c : Char) : Char :=
  if 'a'.toNat ≤ c.toNat && c.toNat ≤ 'z'.toNat then Char.ofNat (c.toNat - 32) else c

/-- A source line from its first part in capitals and the text after it. -/
def readParts (head rest : List Char) : Option SourceLine :=
  match allMnemonics.find? (fun m => mnemonicText m == head) with
  | some m =>
    if rest.isEmpty then some (.command m none) else (readLiteral rest).map (fun v => .command m (some v))
  | none =>
    if head == ['.', 'W', 'O', 'R', 'D'] then (readLiteral rest).map .word
    else if head == ['P', 'U', 'S', 'H', 'W'] then (readLiteral rest).map .pushw
    else if head == ['F', 'R', 'A', 'M', 'E'] then (readLiterals rest).map .frame
    else if head == ['F', 'R', 'A', 'M', 'E', 'C', 'K'] then (readLiterals rest).map .frameck
    else none

/-- Reading one source line (R62 to R66). -/
def readLine (cs : List Char) : Option SourceLine :=
  let body := trimGaps (dropComment cs)
  if body.isEmpty then some .blank
  else readParts ((body.takeWhile (fun c => !isGap c)).map capital) (trimGaps (body.dropWhile (fun c => !isGap c)))

/-- The words of one line of text; none where the line cannot be read or is refused. -/
def assembleText (cs : List Char) : Option (List Word) := (readLine cs).bind assemble

/-- The hexadecimal digit of four bits. -/
def hexChar (d : BitVec 4) : Char :=
  if d.toNat < 10 then Char.ofNat ('0'.toNat + d.toNat) else Char.ofNat ('A'.toNat + (d.toNat - 10))

/-- The lowest `n` groups of four bits of a word, most significant first. -/
def hexText : Nat → Word → List Char
  | 0, _ => []
  | n + 1, w => hexChar (w.extractLsb' (4 * n) 4) :: hexText n w

/-- Printing a word: the command it decodes to, an operand in hexadecimal (log 9); a word that is illegal "as
`.word 0xXXXXXXXX`" (R63). -/
def disassemble (w : Word) : List Char :=
  match decode w with
  | .ok (.start len) => mnemonicText .start ++ [' ', '0', 'x'] ++ hexText 4 (len.setWidth 32)
  | .ok (.push byte) => mnemonicText .push ++ [' ', '0', 'x'] ++ hexText 2 (byte.setWidth 32)
  | .ok i => mnemonicText i.mnemonic
  | .error _ => ['.', 'w', 'o', 'r', 'd', ' ', '0', 'x'] ++ hexText 8 w

end Sys2Proof.Machine
end

