-- ==== Sys2Proof/Safety.lean ====
section
/-! DEFINITION. What a good state is: the invariants of 10_state.md R34, the bytes pushed since the last legal START that
R34.6 speaks of, and what the error record says of the word it holds (R29, R30, R106). -/

namespace Sys2Proof.Machine

/-- R34.1 to R34.3: a frame in progress has a legal length and is not complete; a result belongs to a whole frame. -/
abbrev Block.FrameInv (b : Block) : Prop :=
  (b.busy = true → 2 ≤ b.len.toNat ∧ b.cnt.toNat < b.len.toNat) ∧
  (b.done = true → b.busy = false ∧ 2 ≤ b.len.toNat ∧ b.cnt = b.len) ∧
  ¬(b.busy = true ∧ b.done = true)

/-- R34.4: what `MATCH` says. -/
abbrev Block.MatchInv (b : Block) : Prop :=
  (b.done = true → b.matched = decide (b.acc = b.chk)) ∧ (b.done = false → b.matched = false)

/-- The flag of an error code (R29, R115); no flag for a code that is no error's. -/
def Block.flagOfCode (b : Block) (code : BitVec 4) : Bool :=
  if code = 1#4 then b.errIll else if code = 2#4 then b.errLen else if code = 3#4 then b.errOvr else false

/-- R34.5: the error code, the flags and the word agree. -/
abbrev Block.ErrorInv (b : Block) : Prop :=
  (b.ecode = 0 ↔ (b.errIll = false ∧ b.errLen = false ∧ b.errOvr = false)) ∧
  (b.ecode = 0 → b.errw = 0) ∧
  (b.ecode ≠ 0 → b.flagOfCode b.ecode = true)

/-- R34.1 to R34.5 together. -/
abbrev Block.Inv (b : Block) : Prop := b.FrameInv ∧ b.MatchInv ∧ b.ErrorInv

/-- The invariant of the machine: once the block was reset, R34.1 to R34.5 hold of it. Before the first reset any value is
possible (70_reset_and_hazards.md R142). -/
abbrev State.Inv (s : State) : Prop := s.wasReset = true → s.block.Inv

/-- "The bytes pushed since the last legal START, in order" (R34.6), after one more input: a legal `START` of a legal length
and a reset begin anew, a `PUSH` adds its byte, everything else leaves them. -/
def bytesAfter (f : List Byte) (e : Input) : List Byte :=
  match e with
  | .command w =>
    match decode w with
    | .ok (.start len) => if lengthLegal len then [] else f
    | .ok (.push byte) => f ++ [byte]
    | _ => f
  | .reset => []
  | .commandCutByReset _ => []

/-- The equalities of R34.6 between the block and the bytes `f`, for a frame of a legal length (a length below 2 is the
reset value, under which no frame was opened since reset). A `PUSH` with no frame open is refused a place in the frame, so
`f` may go on beyond the `CNT` bytes the block took. -/
abbrev Block.Tracks (b : Block) (f : List Byte) : Prop :=
  2 ≤ b.len.toNat →
    b.cnt.toNat ≤ f.length ∧
    (b.busy = true → f.length = b.cnt.toNat) ∧
    b.acc = cs16 (f.take (min b.cnt.toNat (b.len.toNat - 2))) ∧
    b.chk.extractLsb' 8 8 = (if b.len.toNat - 1 ≤ b.cnt.toNat then f.getD (b.len.toNat - 2) 0 else 0) ∧
    b.chk.extractLsb' 0 8 = (if b.cnt = b.len then f.getD (b.len.toNat - 1) 0 else 0)

/-- What the recorded word is (R30, R106, R115): a word that raises the error of the recorded code. -/
def errorRecordExplained (b : Block) : Prop :=
  (b.ecode = 0#4 ∧ b.errw = 0) ∨
  (b.ecode = 1#4 ∧ ∃ why, decode b.errw = .error why) ∨
  (b.ecode = 2#4 ∧ ∃ n : Half, n.toNat < 2 ∧ decode b.errw = .ok (.start n)) ∨
  (b.ecode = 3#4 ∧ ∃ byte, decode b.errw = .ok (.push byte))

/-- The causes of 60_exceptions.md R115 with the priority of R123: the error a word raises in a block, if any. -/
def errorOf (w : Word) (b : Block) : Option ErrorCause :=
  match decode w with
  | .error _ => some .ill
  | .ok (.start len) => if lengthLegal len then none else some .len
  | .ok (.push _) => if b.busy then none else some .ovr
  | .ok _ => none

/-- A word that is a `PUSH` (30_encoding.md R59). -/
def isPushWord (w : Word) : Bool :=
  match decode w with
  | .ok (.push _) => true
  | _ => false

/-- A command that neither opens, feeds, ends nor abandons a frame: `NOP`, `CLRERR` and the reads (70_reset_and_hazards.md
R145). -/
def leavesFrame : Instr → Bool
  | .nop | .clrerr | .rdstat | .rdacc | .rdchk | .rdcnt | .rdlen | .rderrw => true
  | .start _ | .push _ | .abort => false

/-- The seven elements that make up a frame and its result, every element of R20 but the error state. -/
abbrev Block.sameFrame (a b : Block) : Prop :=
  a.acc = b.acc ∧ a.cnt = b.cnt ∧ a.len = b.len ∧ a.chk = b.chk ∧ a.busy = b.busy ∧ a.done = b.done ∧ a.matched = b.matched

/-- The five elements of the error state (60_exceptions.md R122). -/
abbrev Block.sameErrors (a b : Block) : Prop :=
  a.errIll = b.errIll ∧ a.errLen = b.errLen ∧ a.errOvr = b.errOvr ∧ a.ecode = b.ecode ∧ a.errw = b.errw

/-- The machine after its first reset, with a command word about to be taken (R37, R142). -/
abbrev State.accepts (s : State) (w : Word) (rest : List Input) : Prop :=
  s.wasReset = true ∧ s.inputs = .command w :: rest

/-- How many of the inputs are commands that reset does not overlap, and how many it does. -/
def countCommands (es : List Input) : Nat × Nat :=
  match es with
  | [] => (0, 0)
  | .command _ :: rest => ((countCommands rest).1 + 1, (countCommands rest).2)
  | .commandCutByReset _ :: rest => ((countCommands rest).1, (countCommands rest).2 + 1)
  | .reset :: rest => countCommands rest

/-- The machine with these inputs presented, in order. -/
def State.present (s : State) (inputs : List Input) : State := { s with inputs := inputs }

/-- `n` steps of the machine (Host/Core.lean), by the model's own names. -/
def run (n : Nat) (s : State) : Host.Outcome State Fault Refusal :=
  match n with
  | 0 => .next s
  | k + 1 =>
    match step s with
    | .next t => run k t
    | .fault r => .fault r
    | .refused r => .refused r

end Sys2Proof.Machine
end

