-- ==== Sys2Proof/Certificates/Slice0/Obligations.lean ====
section
/-! DEFINITION. The statements for the provers. Each docstring names the rule of spec/ it formalises. A command is taken from
the port in a state `s` with `s.accepts w rest`: the machine was reset, and the word `w` is the next input. -/

open Sys2Proof Sys2Proof.Machine

/-! ### Encoding -/

/-- Words written out from the encodings of 30_encoding.md R56, one of each command, and illegal words of each kind (R57,
R58, R60). -/
def Obligations.WordsOfTheSpecDecode : Prop :=
  decode 0x00000000#32 = .ok .nop ∧ decode 0x1000004F#32 = .ok (.start 79#16) ∧
  decode 0x20000046#32 = .ok (.push 0x46#8) ∧ decode 0x30000000#32 = .ok .abort ∧
  decode 0x40000000#32 = .ok .clrerr ∧ decode 0x50000000#32 = .ok .rdstat ∧ decode 0x60000000#32 = .ok .rdacc ∧
  decode 0x70000000#32 = .ok .rdchk ∧ decode 0x80000000#32 = .ok .rdcnt ∧ decode 0x90000000#32 = .ok .rdlen ∧
  decode 0xA0000000#32 = .ok .rderrw ∧ decode 0xB0000000#32 = .error .reservedOpcode ∧
  decode 0x10010001#32 = .error .reservedField ∧ decode 0x20000100#32 = .error .unusedOperandBits ∧
  decode 0x60000001#32 = .error .unusedOperandBits

/-- Every command is well-formed and its word decodes to it, with every operand at every value (R56, R58, R59). -/
def Obligations.DecodeOfEncodeIsTheCommand : Prop :=
  ∀ i : Instr, i.wellFormed = true ∧ decode (encode i) = .ok i

/-- A legal word is the word of the command it decodes to: no command has two words (R56). -/
def Obligations.EncodeOfDecodeIsTheWord : Prop :=
  ∀ (w : Word) (i : Instr), decode w = .ok i → encode i = w

/-- R56: a word is the named command exactly when `(w & mask) == match`, its operand the field R56 names; no two rows match
one word; there are 65801 legal words. -/
def Obligations.OpcodeMapIsExact : Prop :=
  (∀ w : Word, ∀ r ∈ opcodeTable, r.names w = true ↔ ∃ i, decode w = .ok i ∧ i.mnemonic = r.mnemonic) ∧
  (∀ (w : Word) (i : Instr), decode w = .ok i → ∃ r ∈ opcodeTable, r.mnemonic = i.mnemonic) ∧
  (∀ (w : Word) (n : Half), decode w = .ok (.start n) → n = w.extractLsb' 0 16) ∧
  (∀ (w : Word) (byte : Byte), decode w = .ok (.push byte) → byte = w.extractLsb' 0 8) ∧
  (∀ w : Word, ∀ r ∈ opcodeTable, ∀ r' ∈ opcodeTable, r.names w = true → r'.names w = true → r = r') ∧
  Set.ncard {w : Word | ∃ i, decode w = .ok i} = 65801

/-- R57: a word whose `RSV` is not 0 is no command; and the other words that are none (R58, R60). -/
def Obligations.IllegalWordsAreTheListedOnes : Prop :=
  ∀ w : Word, (∃ why, decode w = .error why) ↔
    (w.extractLsb' 16 12 ≠ 0#12 ∨
     11 ≤ (w.extractLsb' 28 4).toNat ∨
     (w.extractLsb' 28 4 = 2#4 ∧ w.extractLsb' 8 8 ≠ 0#8) ∨
     (w.extractLsb' 28 4 ≠ 1#4 ∧ w.extractLsb' 28 4 ≠ 2#4 ∧ (w.extractLsb' 28 4).toNat ≤ 10 ∧ w.extractLsb' 0 16 ≠ 0#16))

/-- R58: the operand of `START` is `w[15:0]` as is, every value legal, and a value below 2 raises ERR_LEN only when it
executes; that of `PUSH` is `w[7:0]`, with `w[15:8]` zero; every other command has `w[15:0]` zero. -/
def Obligations.OperandsAreTakenAsTheyStand : Prop :=
  (∀ imm : Half, decode (0x1000#16 ++ imm) = .ok (.start imm)) ∧
  (∀ (imm : Half) (s : State), imm.toNat < 2 → ∃ t, exec (.start imm) s = .next t ∧ t.block.errLen = true) ∧
  (∀ imm : Half, imm.extractLsb' 8 8 = 0#8 → decode (0x2000#16 ++ imm) = .ok (.push (imm.extractLsb' 0 8))) ∧
  (∀ imm : Half, imm.extractLsb' 8 8 ≠ 0#8 → ∃ why, decode (0x2000#16 ++ imm) = .error why) ∧
  (∀ (op : BitVec 4) (imm : Half), op ≠ 1#4 → op ≠ 2#4 → imm ≠ 0#16 → ∃ why, decode (op ++ 0#12 ++ imm) = .error why)

/-! ### The step -/

/-- A step that takes a word which decodes runs that command, with the word taken from the port. -/
def Obligations.StepRunsTheDecodedCommand : Prop :=
  ∀ (s : State) (w : Word) (rest : List Input) (i : Instr), s.accepts w rest → decode w = .ok i →
    step s = exec i { s with inputs := rest }

/-- A word placed by `withFetchWord` is what the very next step takes: its command runs, or ILL is raised for it. -/
def Obligations.FetchWordIsTakenNext : Prop :=
  ∀ (s : State) (w : Word), s.wasReset = true →
    step (s.withFetchWord 32 w.toNat) =
      match decode w with
      | .ok i => exec i s
      | .error _ => .next (raiseError .ill w s)

/-- R11: the step is total and deterministic. The block's next state and the response are functions of the block's state and
the word alone; the reset event maps every state to the reset state; nothing else changes the state (a step with nothing at
the inputs leaves it, log 8). -/
def Obligations.OutcomeDependsOnBlockAndWordAlone : Prop :=
  (∀ (s₁ s₂ : State) (w : Word) (rest₁ rest₂ : List Input), s₁.accepts w rest₁ → s₂.accepts w rest₂ →
    s₁.block = s₂.block → ∃ t₁ t₂ r, step s₁ = .next t₁ ∧ step s₂ = .next t₂ ∧ t₁.block = t₂.block ∧
      t₁.responses = s₁.responses ++ [r] ∧ t₂.responses = s₂.responses ++ [r]) ∧
  (∀ (s : State) (rest : List Input), s.inputs = .reset :: rest → ∃ t, step s = .next t ∧ t.block = State.reset.block) ∧
  (∀ s : State, s.inputs = [] → step s = .next s)

/-- Every command completes in every state, and beside the block it changes only `responses`, by one word. -/
def Obligations.EveryCommandCompletesWithOneResponse : Prop :=
  ∀ (i : Instr) (s : State), ∃ t r, exec i s = .next t ∧ t.responses = s.responses ++ [r] ∧ t.inputs = s.inputs ∧
    t.wasReset = s.wasReset ∧ t.draws = s.draws

/-- R100: a read command responds with the value it names, zero-extended, and changes no state; every other command, and
every word that raises an error, responds with the STATUS word after its own effect. -/
def Obligations.ResponseRule : Prop :=
  ∀ (s : State) (w : Word) (rest : List Input), s.accepts w rest → ∃ t, step s = .next t ∧
    t.responses = s.responses ++
      [match decode w with
       | .ok .rdstat => s.block.status
       | .ok .rdacc => s.block.acc.setWidth 32
       | .ok .rdchk => s.block.chk.setWidth 32
       | .ok .rdcnt => s.block.cnt.setWidth 32
       | .ok .rdlen => s.block.len.setWidth 32
       | .ok .rderrw => s.block.errw
       | _ => t.block.status] ∧
    (decode w = .ok .rdstat ∨ decode w = .ok .rdacc ∨ decode w = .ok .rdchk ∨ decode w = .ok .rdcnt ∨
      decode w = .ok .rdlen ∨ decode w = .ok .rderrw → t.block = s.block)

/-! ### The commands -/

/-- R75 and R117: `START n` with `2 ≤ n` opens a frame; with `n < 2` it raises error 2 and changes nothing else. -/
def Obligations.StartOpensFrameOrRaisesLen : Prop :=
  (∀ n : Half, decode (0x1000#16 ++ n) = .ok (.start n)) ∧
  (∀ w : Word, w.extractLsb' 28 4 = 1#4 → w.extractLsb' 16 12 ≠ 0#12 → ∃ why, decode w = .error why) ∧
  (∀ (n : Half) (s : State), 2 ≤ n.toNat →
    let b : Block := { s.block with
      acc := 0#16, cnt := 0#16, len := n, chk := 0#16, busy := true, done := false, matched := false }
    exec (.start n) s = .next { s with block := b, responses := s.responses ++ [b.status] }) ∧
  (∀ (n : Half) (s : State), n.toNat < 2 →
    let b : Block := { s.block with
      errLen := true
      ecode := if s.block.ecode = 0#4 then 2#4 else s.block.ecode
      errw := if s.block.ecode = 0#4 then 0x1000#16 ++ n else s.block.errw }
    exec (.start n) s = .next { s with block := b, responses := s.responses ++ [b.status] })

/-- R76: `ABORT` clears `BUSY`, `DONE` and `MATCH`, so the phase is IDLE and three outputs are 0; nothing else changes. -/
def Obligations.AbortClearsFrameAndResult : Prop :=
  decode 0x30000000#32 = .ok .abort ∧
  (∀ w : Word, w.extractLsb' 28 4 = 3#4 → w ≠ 0x30000000#32 → ∃ why, decode w = .error why) ∧
  ∀ s : State,
    let b : Block := { s.block with busy := false, done := false, matched := false }
    exec .abort s = .next { s with block := b, responses := s.responses ++ [b.status] } ∧
      b.phase = .idle ∧ b.busyOut = false ∧ b.doneOut = false ∧ b.okOut = false

/-- R87 and R118: `PUSH` with a frame open takes the byte by its place, the comparisons of `CNT` with `LEN - 2` in unbounded
integers and the last branch at `CNT = LEN - 1`, where `LEN >= 2` (R87's remarks); with no frame open it raises error 3 and
changes nothing else. -/
def Obligations.PushTakesByteOrRaisesOvr : Prop :=
  (∀ byte : Byte, decode (0x200000#24 ++ byte) = .ok (.push byte)) ∧
  (∀ w : Word, w.extractLsb' 28 4 = 2#4 → w.extractLsb' 8 20 ≠ 0#20 → ∃ why, decode w = .error why) ∧
  (∀ (byte : Byte) (s : State), s.block.busy = true → (s.block.cnt.toNat : Int) < (s.block.len.toNat : Int) - 2 →
    let b : Block := { s.block with acc := s.block.acc + byte.setWidth 16, cnt := s.block.cnt + 1 }
    exec (.push byte) s = .next { s with block := b, responses := s.responses ++ [b.status] }) ∧
  (∀ (byte : Byte) (s : State), s.block.busy = true → (s.block.cnt.toNat : Int) = (s.block.len.toNat : Int) - 2 →
    let b : Block := { s.block with chk := byte ++ s.block.chk.extractLsb' 0 8, cnt := s.block.cnt + 1 }
    exec (.push byte) s = .next { s with block := b, responses := s.responses ++ [b.status] }) ∧
  (∀ (byte : Byte) (s : State), s.block.busy = true → 2 ≤ s.block.len.toNat →
    (s.block.cnt.toNat : Int) = (s.block.len.toNat : Int) - 1 →
    let b : Block := { s.block with
      chk := s.block.chk.extractLsb' 8 8 ++ byte
      matched := decide (s.block.acc = s.block.chk.extractLsb' 8 8 ++ byte)
      done := true, busy := false, cnt := s.block.cnt + 1 }
    exec (.push byte) s = .next { s with block := b, responses := s.responses ++ [b.status] }) ∧
  (∀ (byte : Byte) (s : State), s.block.busy = false →
    let b : Block := { s.block with
      errOvr := true
      ecode := if s.block.ecode = 0#4 then 3#4 else s.block.ecode
      errw := if s.block.ecode = 0#4 then 0x200000#24 ++ byte else s.block.errw }
    exec (.push byte) s = .next { s with block := b, responses := s.responses ++ [b.status] })

/-- The model's choice (log 7), in states that break R34.1, which no run from reset reaches: with `BUSY = 1` and a `LEN`
below 2, or a `CNT` not below `LEN`, `PUSH` takes the last branch of 41_accumulate.md R87, and `CNT + 1` is a 16-bit sum. -/
def Obligations.PushOutsideTheFrameInvariant : Prop :=
  ∀ (byte : Byte) (s : State), s.block.busy = true →
    s.block.len.toNat < 2 ∨ s.block.len.toNat ≤ s.block.cnt.toNat →
    let b : Block := { s.block with
      chk := s.block.chk.extractLsb' 8 8 ++ byte
      matched := decide (s.block.acc = s.block.chk.extractLsb' 8 8 ++ byte)
      done := true, busy := false, cnt := s.block.cnt + 1 }
    exec (.push byte) s = .next { s with block := b, responses := s.responses ++ [b.status] }

/-- R101 to R106: each read responds with the value it names and writes nothing. -/
def Obligations.ReadsRespondAndWriteNothing : Prop :=
  (decode 0x50000000#32 = .ok .rdstat ∧
    ∀ s : State, exec .rdstat s = .next { s with responses := s.responses ++ [s.block.status] }) ∧
  (decode 0x60000000#32 = .ok .rdacc ∧
    ∀ s : State, exec .rdacc s = .next { s with responses := s.responses ++ [0#16 ++ s.block.acc] }) ∧
  (decode 0x70000000#32 = .ok .rdchk ∧
    ∀ s : State, exec .rdchk s = .next { s with responses := s.responses ++ [0#16 ++ s.block.chk] }) ∧
  (decode 0x80000000#32 = .ok .rdcnt ∧
    ∀ s : State, exec .rdcnt s = .next { s with responses := s.responses ++ [0#16 ++ s.block.cnt] }) ∧
  (decode 0x90000000#32 = .ok .rdlen ∧
    ∀ s : State, exec .rdlen s = .next { s with responses := s.responses ++ [0#16 ++ s.block.len] }) ∧
  (decode 0xA0000000#32 = .ok .rderrw ∧
    ∀ s : State, exec .rderrw s = .next { s with responses := s.responses ++ [s.block.errw] })

/-- R110: `NOP` writes nothing and responds STATUS; a word with `OP = 0` and any other bit set is illegal. -/
def Obligations.NopOnlyRespondsStatus : Prop :=
  decode 0x00000000#32 = .ok .nop ∧
  (∀ s : State, exec .nop s = .next { s with responses := s.responses ++ [s.block.status] }) ∧
  (∀ w : Word, w.extractLsb' 28 4 = 0#4 → w ≠ 0#32 → ∃ why, decode w = .error why)

/-- R111: `CLRERR` clears the five elements of the error state and leaves the frame. -/
def Obligations.ClrerrClearsTheErrorState : Prop :=
  decode 0x40000000#32 = .ok .clrerr ∧
  ∀ s : State,
    let b : Block := { s.block with errIll := false, errLen := false, errOvr := false, ecode := 0#4, errw := 0#32 }
    exec .clrerr s = .next { s with block := b, responses := s.responses ++ [b.status] }

/-! ### Errors -/

/-- R116: a word of any of the four kinds the rule lists raises error 1 and has no other effect. -/
def Obligations.IllegalWordRaisesIll : Prop :=
  ∀ (s : State) (w : Word) (rest : List Input), s.accepts w rest →
    (11 ≤ (w.extractLsb' 28 4).toNat ∨
     w.extractLsb' 16 12 ≠ 0#12 ∨
     (w.extractLsb' 28 4 = 2#4 ∧ w.extractLsb' 8 8 ≠ 0#8) ∨
     (w.extractLsb' 28 4 ≠ 1#4 ∧ w.extractLsb' 28 4 ≠ 2#4 ∧ w.extractLsb' 0 16 ≠ 0#16)) →
    let b : Block := { s.block with
      errIll := true
      ecode := if s.block.ecode = 0#4 then 1#4 else s.block.ecode
      errw := if s.block.ecode = 0#4 then w else s.block.errw }
    step s = .next { s with inputs := rest, block := b, responses := s.responses ++ [b.status] }

/-- R121 and R122: a word that raises an error sets that error's flag, records code and word if none was recorded, responds
STATUS after that, and changes nothing else. -/
def Obligations.ErrorsAreRecordedPrecisely : Prop :=
  ∀ (s : State) (w : Word) (rest : List Input) (c : ErrorCause), s.accepts w rest → errorOf w s.block = some c →
    let b : Block := { s.block with
      errIll := s.block.errIll || decide (c = .ill)
      errLen := s.block.errLen || decide (c = .len)
      errOvr := s.block.errOvr || decide (c = .ovr)
      ecode := if s.block.ecode = 0#4 then errorCode c else s.block.ecode
      errw := if s.block.ecode = 0#4 then w else s.block.errw }
    step s = .next { s with inputs := rest, block := b, responses := s.responses ++ [b.status] }

/-- R123, from a block with no error recorded: an illegal word raises ILL and nothing else whatever it would otherwise be; a
legal word raises only the error of its own state check. -/
def Obligations.OneErrorByPriority : Prop :=
  (∀ (s : State) (w : Word) (rest : List Input), s.accepts w rest →
    s.block.sameErrors Block.reset → ∃ t, step s = .next t ∧
    (t.block.ecode, t.block.errIll, t.block.errLen, t.block.errOvr) =
      match decode w with
      | .error _ => (1#4, true, false, false)
      | .ok (.start n) => if n.toNat < 2 then (2#4, false, true, false) else (0#4, false, false, false)
      | .ok (.push _) => if s.block.busy = false then (3#4, false, false, true) else (0#4, false, false, false)
      | .ok _ => (0#4, false, false, false)) ∧
  (∃ why, decode 0x10010001#32 = .error why) ∧ (∃ why, decode 0x20000100#32 = .error why)

/-- R127: an error raised while errors are recorded sets its own flag, leaves the other flags and the record of the first;
and no recorded error changes what any word does to the frame. -/
def Obligations.ErrorsAccumulateAndBlockNothing : Prop :=
  (∀ (s : State) (w : Word) (rest : List Input) (c : ErrorCause), s.accepts w rest → errorOf w s.block = some c →
    s.block.ecode ≠ 0#4 → ∃ t, step s = .next t ∧
      t.block.errIll = (s.block.errIll || decide (c = .ill)) ∧ t.block.errLen = (s.block.errLen || decide (c = .len)) ∧
      t.block.errOvr = (s.block.errOvr || decide (c = .ovr)) ∧ t.block.ecode = s.block.ecode ∧
      t.block.errw = s.block.errw) ∧
  (∀ (s₁ s₂ : State) (w : Word) (rest₁ rest₂ : List Input), s₁.accepts w rest₁ → s₂.accepts w rest₂ →
    s₁.block.sameFrame s₂.block →
    ∃ t₁ t₂, step s₁ = .next t₁ ∧ step s₂ = .next t₂ ∧ t₁.block.sameFrame t₂.block)

/-- R28: each flag is set by its own cause and by no other, and once set stays set until `CLRERR` or reset. -/
def Obligations.ErrorFlagsAreSticky : Prop :=
  (∀ (s : State) (w : Word) (rest : List Input), s.accepts w rest → decode w ≠ .ok .clrerr →
    ∃ t, step s = .next t ∧
      (t.block.errIll = true ↔ s.block.errIll = true ∨ ∃ why, decode w = .error why) ∧
      (t.block.errLen = true ↔ s.block.errLen = true ∨ ∃ n : Half, n.toNat < 2 ∧ decode w = .ok (.start n)) ∧
      (t.block.errOvr = true ↔ s.block.errOvr = true ∨
        (s.block.busy = false ∧ ∃ byte, decode w = .ok (.push byte)))) ∧
  (∀ (s : State) (w : Word) (rest : List Input), s.accepts w rest → decode w = .ok .clrerr →
    ∃ t, step s = .next t ∧ t.block.errIll = false ∧ t.block.errLen = false ∧ t.block.errOvr = false) ∧
  (∀ (s : State) (rest : List Input), s.inputs = .reset :: rest →
    ∃ t, step s = .next t ∧ t.block.errIll = false ∧ t.block.errLen = false ∧ t.block.errOvr = false)

/-- What the error record says of the word it holds (R30, R106), kept by every step: ERRW is 0 exactly with code 0, and
otherwise a word that raises the error of the code. -/
def Obligations.ErrorRecordStaysExplained : Prop :=
  errorRecordExplained State.reset.block ∧
  (∀ s t : State, (s.wasReset = true → errorRecordExplained s.block) → step s = .next t →
    t.wasReset = true → errorRecordExplained t.block) ∧
  (∀ b : Block, errorRecordExplained b → (b.errw = 0#32 ↔ b.ecode = 0#4))

/-- R119: the byte that completes a frame whose sum differs from its field leaves `DONE = 1`, `MATCH = 0` and `ok_o = 0`, and
leaves the error state. -/
def Obligations.MismatchIsNoError : Prop :=
  ∀ (byte : Byte) (s : State), s.block.busy = true → s.block.cnt.toNat + 1 = s.block.len.toNat →
    s.block.acc ≠ s.block.chk.extractLsb' 8 8 ++ byte → ∃ t, exec (.push byte) s = .next t ∧
      t.block.done = true ∧ t.block.matched = false ∧ t.block.okOut = false ∧ t.block.sameErrors s.block

/-! ### State and views -/

/-- R31: every bit of the STATUS word. -/
def Obligations.StatusWordLayout : Prop :=
  ∀ b : Block,
    b.status.getLsbD 0 = b.busy ∧ b.status.getLsbD 1 = b.done ∧ b.status.getLsbD 2 = b.matched ∧
    b.status.getLsbD 3 = b.errIll ∧ b.status.getLsbD 4 = b.errLen ∧ b.status.getLsbD 5 = b.errOvr ∧
    b.status.extractLsb' 6 2 = phaseCode b.phase ∧ b.status.extractLsb' 8 4 = b.ecode ∧ b.status.extractLsb' 12 20 = 0#20

/-- R32: the phase by `BUSY`, `CNT` and `LEN`, exactly one of the last three while a frame is open, and what the next `PUSH`
does in each. -/
def Obligations.PhaseSaysWhatTheNextPushDoes : Prop :=
  ∀ (s : State) (byte : Byte), s.block.FrameInv →
    (s.block.phase = .idle ↔ s.block.busy = false) ∧
    (s.block.phase = .data ↔ s.block.busy = true ∧ (s.block.cnt.toNat : Int) < (s.block.len.toNat : Int) - 2) ∧
    (s.block.phase = .chkHi ↔ s.block.busy = true ∧ (s.block.cnt.toNat : Int) = (s.block.len.toNat : Int) - 2) ∧
    (s.block.phase = .chkLo ↔ s.block.busy = true ∧ (s.block.cnt.toNat : Int) = (s.block.len.toNat : Int) - 1) ∧
    phaseCode .idle = 0b00#2 ∧ phaseCode .data = 0b01#2 ∧ phaseCode .chkHi = 0b10#2 ∧ phaseCode .chkLo = 0b11#2 ∧
    (s.block.phase = .data → ∃ t, exec (.push byte) s = .next t ∧ t.block.acc = s.block.acc + byte.setWidth 16 ∧
      t.block.chk = s.block.chk) ∧
    (s.block.phase = .chkHi → ∃ t, exec (.push byte) s = .next t ∧ t.block.acc = s.block.acc ∧
      t.block.chk.extractLsb' 8 8 = byte) ∧
    (s.block.phase = .chkLo → ∃ t, exec (.push byte) s = .next t ∧ t.block.acc = s.block.acc ∧
      t.block.chk.extractLsb' 0 8 = byte ∧ t.block.done = true ∧ t.block.busy = false)

/-- R33: which command can change each element. In a block that meets R34.1 to R34.3, so that R32's phases are exact. -/
def Obligations.OnlyListedWritersChangeAnElement : Prop :=
  ∀ (s : State) (w : Word) (rest : List Input), s.accepts w rest → s.block.FrameInv → ∃ t, step s = .next t ∧
    let opens := ∃ n : Half, 2 ≤ n.toNat ∧ decode w = .ok (.start n)
    let pushes := fun p : Phase => (∃ byte, decode w = .ok (.push byte)) ∧ s.block.phase = p
    let clears := decode w = .ok .clrerr
    (t.block.acc ≠ s.block.acc → opens ∨ pushes .data) ∧
    (t.block.cnt ≠ s.block.cnt → opens ∨ pushes .data ∨ pushes .chkHi ∨ pushes .chkLo) ∧
    (t.block.len ≠ s.block.len → opens) ∧
    (t.block.chk.extractLsb' 8 8 ≠ s.block.chk.extractLsb' 8 8 → opens ∨ pushes .chkHi) ∧
    (t.block.chk.extractLsb' 0 8 ≠ s.block.chk.extractLsb' 0 8 → opens ∨ pushes .chkLo) ∧
    (t.block.busy ≠ s.block.busy → opens ∨ decode w = .ok .abort ∨ pushes .chkLo) ∧
    (t.block.done ≠ s.block.done → opens ∨ decode w = .ok .abort ∨ pushes .chkLo) ∧
    (t.block.matched ≠ s.block.matched → opens ∨ decode w = .ok .abort ∨ pushes .chkLo) ∧
    (t.block.errIll ≠ s.block.errIll → clears ∨ errorOf w s.block = some .ill) ∧
    (t.block.errLen ≠ s.block.errLen → clears ∨ errorOf w s.block = some .len) ∧
    (t.block.errOvr ≠ s.block.errOvr → clears ∨ errorOf w s.block = some .ovr) ∧
    (t.block.ecode ≠ s.block.ecode → clears ∨ (s.block.ecode = 0#4 ∧ errorOf w s.block ≠ none)) ∧
    (t.block.errw ≠ s.block.errw → clears ∨ (s.block.ecode = 0#4 ∧ errorOf w s.block ≠ none))

/-- R26: `DONE` becomes 1 by the `PUSH` that delivers byte `LEN-1` and by nothing else, and 0 by `START`, `ABORT` and
reset and by nothing else. -/
def Obligations.DoneIsTheCompletingPush : Prop :=
  (∀ (s : State) (w : Word) (rest : List Input), s.accepts w rest → s.block.FrameInv → ∃ t, step s = .next t ∧
    t.block.done =
      match decode w with
      | .ok (.push _) => s.block.done || (s.block.busy && decide (s.block.cnt.toNat + 1 = s.block.len.toNat))
      | .ok (.start n) => s.block.done && decide (n.toNat < 2)
      | .ok .abort => false
      | _ => s.block.done) ∧
  (∀ (s : State) (rest : List Input), s.inputs = .reset :: rest → ∃ t, step s = .next t ∧ t.block.done = false)

/-- R38: the four outputs. -/
def Obligations.OutputsAreLevelsOfTheState : Prop :=
  ∀ b : Block, b.busyOut = b.busy ∧ b.doneOut = b.done ∧ (b.okOut = true ↔ b.done = true ∧ b.matched = true) ∧
    (b.errOut = true ↔ b.errIll = true ∨ b.errLen = true ∨ b.errOvr = true)

/-- R50: which commands change nothing when repeated, and that an accepted `PUSH` advances `CNT`, by 1, each time; the
addition does not wrap in a frame that meets R34.1. -/
def Obligations.RepeatedCommands : Prop :=
  (∀ (i : Instr) (s : State), i ≠ .clrerr → leavesFrame i = true → ∃ t, exec i s = .next t ∧ t.block = s.block) ∧
  (∀ (i : Instr) (s : State), (i = .abort ∨ i = .clrerr ∨ (∃ n : Half, 2 ≤ n.toNat ∧ i = .start n)) →
    ∃ t u, exec i s = .next t ∧ exec i t = .next u ∧ u.block = t.block) ∧
  (∀ (byte : Byte) (s : State), s.block.busy = true →
    ∃ t, exec (.push byte) s = .next t ∧ t.block.cnt = s.block.cnt + 1 ∧
      (s.block.FrameInv → t.block.cnt.toNat = s.block.cnt.toNat + 1)) ∧
  (∀ (byte : Byte) (s : State), s.block.busy = false →
    ∃ t u, exec (.push byte) s = .next t ∧ t.block.sameFrame s.block ∧ exec (.push byte) t = .next u ∧
      u.block = t.block ∧ u.block.errOvr = true)

/-- R145: reads, `NOP` and `CLRERR` may stand anywhere in a frame and do not disturb it. -/
def Obligations.InterleavedCommandsKeepTheFrame : Prop :=
  ∀ (s : State) (w : Word) (rest : List Input) (i : Instr), s.accepts w rest → decode w = .ok i → leavesFrame i = true →
    ∃ t, step s = .next t ∧ t.block.sameFrame s.block ∧ t.block.phase = s.block.phase

/-- R96: the order of the phases within a frame, that `PUSH` moves it by one byte until the last, and that nothing else
moves it but `START`, `ABORT` and reset; and from `START n`, whatever other words that neither open nor abandon a frame stand
between, the frame is open until the `n`th `PUSH` and completed by it. -/
def Obligations.PhasesFollowTheFrame : Prop :=
  (∀ (n : Half) (s : State), 2 ≤ n.toNat →
    ∃ t, exec (.start n) s = .next t ∧ t.block.busy = true ∧ t.block.cnt = 0#16 ∧ t.block.len = n ∧
      t.block.phase = if n.toNat = 2 then .chkHi else .data) ∧
  (∀ (byte : Byte) (s : State), s.block.FrameInv → s.block.busy = true →
    ∃ t, exec (.push byte) s = .next t ∧ t.block.cnt.toNat = s.block.cnt.toNat + 1 ∧ t.block.len = s.block.len ∧
      t.block.busy = decide (s.block.cnt.toNat + 1 < s.block.len.toNat) ∧
      (s.block.phase = .data → t.block.phase = .data ∨ t.block.phase = .chkHi) ∧
      (s.block.phase = .chkHi → t.block.phase = .chkLo) ∧
      (s.block.phase = .chkLo → t.block.phase = .idle ∧ t.block.done = true)) ∧
  (∀ s : State, ∃ t, exec .abort s = .next t ∧ t.block.phase = .idle) ∧
  (∀ (s : State) (rest : List Input), s.inputs = .reset :: rest → ∃ t, step s = .next t ∧ t.block.phase = .idle) ∧
  (∀ (s : State) (w : Word) (rest : List Input), s.accepts w rest → decode w ≠ .ok .abort →
    (∀ m : Half, decode w = .ok (.start m) → m.toNat < 2) → (isPushWord w = true → s.block.busy = false) →
    ∃ t, step s = .next t ∧ t.block.phase = s.block.phase) ∧
  (∀ (n : Half) (s : State) (words : List Word) (rest : List Input), 2 ≤ n.toNat → s.wasReset = true →
    s.inputs = .command (encode (.start n)) :: (words.map Input.command ++ rest) →
    (∀ w ∈ words, decode w ≠ .ok .abort ∧ ∀ m : Half, decode w = .ok (.start m) → m.toNat < 2) →
    words.countP isPushWord ≤ n.toNat →
    ∃ t, run (words.length + 1) s = .next t ∧ t.inputs = rest ∧ t.block.len = n ∧
      t.block.cnt.toNat = words.countP isPushWord ∧ t.block.busy = decide (words.countP isPushWord < n.toNat) ∧
      t.block.done = decide (words.countP isPushWord = n.toNat))

/-! ### Reset -/

/-- R39: every element after reset, with what follows from it. -/
def Obligations.ResetValues : Prop :=
  State.reset.block.acc = 0#16 ∧ State.reset.block.cnt = 0#16 ∧ State.reset.block.len = 0#16 ∧
  State.reset.block.chk = 0#16 ∧ State.reset.block.busy = false ∧ State.reset.block.done = false ∧
  State.reset.block.matched = false ∧ State.reset.block.errIll = false ∧ State.reset.block.errLen = false ∧
  State.reset.block.errOvr = false ∧ State.reset.block.ecode = 0#4 ∧ State.reset.block.errw = 0#32 ∧
  State.reset.block.status = 0#32 ∧ State.reset.block.phase = .idle ∧ State.reset.block.busyOut = false ∧
  State.reset.block.doneOut = false ∧ State.reset.block.okOut = false ∧ State.reset.block.errOut = false

/-- R140: the reset event sets every element to its reset value from any state, produces no response and takes nothing else
from the port. -/
def Obligations.ResetEventFromAnyState : Prop :=
  ∀ (s : State) (rest : List Input), s.inputs = .reset :: rest → ∃ t, step s = .next t ∧
    t.block = State.reset.block ∧ t.responses = s.responses ∧ t.inputs = rest ∧ t.wasReset = true ∧ t.draws = s.draws ∧
    t.block.status = 0#32 ∧ t.block.phase = .idle ∧ t.block.busyOut = false ∧ t.block.doneOut = false ∧
    t.block.okOut = false ∧ t.block.errOut = false

/-- A command is wholly before reset or wholly after it (70_reset_and_hazards.md R141). One before reset takes its whole
effect, then reset overwrites it; one after reset does and responds what it does from the reset state. The first clause is the
model's choice: a command that reset overlaps and that reset are one input (log 5), before the first reset too (log 4), which
leaves the reset values and at most one response, of which nothing more is said. -/
def Obligations.ResetIsOrderedAgainstCommands : Prop :=
  (∀ (s : State) (w : Word) (rest : List Input), s.inputs = .commandCutByReset w :: rest →
    ∃ t, step s = .next t ∧ t.block = State.reset.block ∧ t.inputs = rest ∧
      (t.responses = s.responses ∨ ∃ v, t.responses = s.responses ++ [v])) ∧
  (∀ (s : State) (w : Word) (rest : List Input), s.accepts w (.reset :: rest) →
    ∃ t u, step s = .next t ∧ step t = .next u ∧ u.block = State.reset.block ∧ u.responses = t.responses) ∧
  (∀ (s : State) (w : Word) (rest : List Input), s.inputs = .reset :: .command w :: rest →
    ∃ t u v, step s = .next t ∧ step t = .next u ∧
      step (State.reset.present (.command w :: rest)) = .next v ∧ u.block = v.block ∧
      u.responses = s.responses ++ v.responses ∧ v.responses.length = 1)

/-- The model's choice (log 4) of the second of the two ways 70_reset_and_hazards.md R142 allows: whatever the block holds at power-up, a command before the first reset is
refused, and a reset brings every element to its reset value. -/
def Obligations.CommandBeforeFirstResetIsRefused : Prop :=
  (∀ (pre : Block) (w : Word) (rest : List Input),
    step ((State.powerUp pre).present (.command w :: rest)) = .refused .commandBeforeFirstReset) ∧
  (∀ (pre : Block) (rest : List Input),
    step ((State.powerUp pre).present (.reset :: rest)) = .next (State.reset.present rest))

/-! ### Invariants -/

/-- The reset state meets the invariants of R34, with no bytes pushed. -/
def Obligations.ResetMeetsTheInvariants : Prop :=
  State.reset.Inv ∧ State.reset.block.Tracks []

/-- R34.1 to R34.5 are kept by every step, from every state that meets them. -/
def Obligations.StepKeepsTheInvariants : Prop :=
  ∀ s t : State, s.Inv → step s = .next t → t.Inv

/-- R34.6 is kept by every input the block takes, from every state that meets the invariants: `ACC` and `CHK` are those of
the bytes pushed since the last legal `START`. -/
def Obligations.StepKeepsFrameContents : Prop :=
  ∀ (s t : State) (e : Input) (rest : List Input) (f : List Byte), s.wasReset = true → s.inputs = e :: rest →
    s.block.Inv → s.block.Tracks f → step s = .next t → t.block.Tracks (bytesAfter f e)

/-- R34: every state reachable from reset satisfies its six invariants, whatever the host presents. -/
def Obligations.ReachableStatesMeetTheInvariants : Prop :=
  ∀ (inputs : List Input) (n : Nat), ∃ t, run n (State.reset.present inputs) = .next t ∧
    t.block.FrameInv ∧ t.block.MatchInv ∧ t.block.ErrorInv ∧
    t.block.Tracks ((inputs.take n).foldl bytesAfter [])

/-! ### The checksum -/

/-- R93: from any state after a reset, `START n` and the `n` bytes of a frame leave the sum of R85, the field, and the result
of R86; the error state is the one before; the last response is the one R93 gives. -/
def Obligations.StreamingComputesValidate : Prop :=
  ∀ (s : State) (bytes : List Byte) (high low : Byte) (rest : List Input),
    let f := bytes ++ [high, low]
    f.length ≤ 65535 → s.wasReset = true →
    s.inputs = .command (encode (.start (BitVec.ofNat 16 f.length))) ::
      (f.map (fun b => Input.command (encode (.push b))) ++ rest) →
    ∃ t, run (f.length + 1) s = .next t ∧ t.inputs = rest ∧
      t.block.busy = false ∧ t.block.done = true ∧ t.block.cnt.toNat = f.length ∧ t.block.len.toNat = f.length ∧
      t.block.acc = cs16 bytes ∧ t.block.chk = fieldValue high low ∧
      validate f = some t.block.matched ∧ validate f = some t.block.okOut ∧ t.block.sameErrors s.block ∧
      t.responses.length = s.responses.length + f.length + 1 ∧
      t.responses.getLast? =
        some (0x00000002#32 ||| ((BitVec.ofBool t.block.matched).setWidth 32 <<< 2) ||| (s.block.status &&& 0x00000F38#32))

/-- R66: `FRAMECK` of `k` data bytes is the `k + 3` commands named there, and its frame always completes with `MATCH = 1`. -/
def Obligations.FrameckAlwaysMatches : Prop :=
  ∀ (bytes : List Byte), bytes.length + 2 ≤ 65535 →
    let words := (Instr.start (BitVec.ofNat 16 (bytes.length + 2)) ::
      (bytes.map Instr.push ++ [.push ((cs16 bytes).extractLsb' 8 8), .push ((cs16 bytes).extractLsb' 0 8)])).map encode
    assemble (.frameck (bytes.map BitVec.toNat)) = some words ∧ words.length = bytes.length + 3 ∧
    ∀ s : State, s.wasReset = true → s.inputs = words.map Input.command →
      ∃ t, run words.length s = .next t ∧ t.block.done = true ∧ t.block.matched = true

/-- R91: the sum does not depend on the order of the bytes, so a reordering of data bytes is not detected. -/
def Obligations.ChecksumIgnoresOrder : Prop :=
  (∀ a b : List Byte, a.Perm b → cs16 a = cs16 b) ∧
  (∀ (a b : List Byte) (high low : Byte), a.Perm b → validate (a ++ [high, low]) = validate (b ++ [high, low]))

/-- R92: changing exactly one byte of a valid frame, in any way, makes it invalid. -/
def Obligations.SingleByteCorruptionIsDetected : Prop :=
  ∀ (f : List Byte) (i : Nat) (b : Byte), validate f = some true → i < f.length → f[i]? ≠ some b →
    validate (f.set i b) = some false

/-- R94: the exact sum of `k` bytes is at most `255 * k` and does not wrap for `k ≤ 257`, and does for 258 bytes of 0xFF; the
bounds on the high byte of the field in the protocol's two lengths. -/
def Obligations.SumBoundsOfTheProtocol : Prop :=
  (∀ bs : List Byte, byteSum bs ≤ 255 * bs.length) ∧
  (∀ bs : List Byte, bs.length ≤ 257 → (cs16 bs).toNat = byteSum bs) ∧
  byteSum (List.replicate 258 0xFF#8) = 65790 ∧ cs16 (List.replicate 258 0xFF#8) = 0x00FE#16 ∧
  (∀ bs : List Byte, bs.length = 77 → byteSum bs ≤ 0x4CB3) ∧
  (∀ f : List Byte, f.length = 79 → 0x4C < (f.getD 77 0).toNat → validate f = some false) ∧
  (∀ bs : List Byte, bs.length = 2 → byteSum bs ≤ 0x01FE) ∧
  (∀ f : List Byte, f.length = 4 → 0x01 < (f.getD 2 0).toNat → validate f = some false)

/-- R95: the corruptions the check does not detect. -/
def Obligations.UndetectedCorruptions : Prop :=
  (∀ (a b : List Byte) (high low : Byte), a.Perm b → validate (a ++ [high, low]) = validate (b ++ [high, low])) ∧
  (∀ (a b : List Byte) (high low : Byte), a.length = b.length → byteSum a % 65536 = byteSum b % 65536 →
    validate (a ++ [high, low]) = validate (b ++ [high, low])) ∧
  (∀ b : List Byte, validate (b ++ [(cs16 b).extractLsb' 8 8, (cs16 b).extractLsb' 0 8]) = some true)

/-! ### Waiting and liveness -/

/-- The wait of 60_exceptions.md R120 and 70_reset_and_hazards.md R148, as the model has it (log 8): while fewer bytes have come than the frame still needs, and neither `START`, `ABORT` nor reset, the block
stays `BUSY = 1`; and once the host presents nothing, it stays as it is for any number of steps. -/
def Obligations.IncompleteFrameStaysOpen : Prop :=
  ∀ (s : State) (words : List Word), s.wasReset = true → s.block.FrameInv → s.block.busy = true →
    s.inputs = words.map Input.command →
    (∀ w ∈ words, decode w ≠ .ok .abort ∧ ∀ n, decode w ≠ .ok (.start n)) →
    s.block.cnt.toNat + words.countP isPushWord < s.block.len.toNat →
    ∃ t, run words.length s = .next t ∧ t.block.busy = true ∧
      t.block.cnt.toNat = s.block.cnt.toNat + words.countP isPushWord ∧ t.block.len = s.block.len ∧
      ∀ k, run k t = .next t

/-- A finite sequence of inputs ends, every input taken, and every command that reset does not overlap has produced its
response (70_reset_and_hazards.md R150, which assumes both of a realisation and bounds neither). That this takes one step for
each input, the response in that step, is the model's own (log 12); so is the count for an overlapped command, which has no
response or one (log 5). -/
def Obligations.FiniteSequenceEnds : Prop :=
  ∀ s : State, s.wasReset = true → ∃ t, run s.inputs.length s = .next t ∧ t.inputs = [] ∧
    s.responses.length + (countCommands s.inputs).1 ≤ t.responses.length ∧
    t.responses.length ≤ s.responses.length + (countCommands s.inputs).1 + (countCommands s.inputs).2

/-! ### The assembler -/

/-- R62: what a line with a mnemonic assembles to, and that a literal out of its range is refused, never truncated. -/
def Obligations.AssemblerEncodesOrRefuses : Prop :=
  (∀ v : Nat, assemble (.command .start (some v)) =
    if v ≤ 65535 then some [0x10000000#32 ||| BitVec.ofNat 32 v] else none) ∧
  (∀ v : Nat, assemble (.command .push (some v)) =
    if v ≤ 255 then some [0x20000000#32 ||| BitVec.ofNat 32 v] else none) ∧
  (∀ r ∈ opcodeTable, r.mnemonic ≠ .start → r.mnemonic ≠ .push →
    assemble (.command r.mnemonic none) = some [r.matchBits] ∧ ∀ v, assemble (.command r.mnemonic (some v)) = none) ∧
  assemble (.command .start none) = none ∧ assemble (.command .push none) = none

/-- A comment runs from `;` to the end of the line, and the letters of a mnemonic may be of either case, in a line of that
mnemonic alone too (30_encoding.md R62). That the same holds of any first part, `.word` and the pseudo-instructions included,
with white space or a comment after it or nothing, and white space before it, is the model's choice (log 10). -/
def Obligations.SourceTextCommentsAndCase : Prop :=
  (∀ cs tail : List Char, ';' ∉ cs → readLine (cs ++ ';' :: tail) = readLine cs) ∧
  (∀ (m : Mnemonic) (cs : List Char), cs.map capital = mnemonicText m → readLine cs = some (.command m none)) ∧
  (∀ gap a b rest : List Char, (∀ c ∈ gap, c = ' ' ∨ c = '\t') → a.map capital = b.map capital →
    (∀ c ∈ a ++ b, c ≠ ' ' ∧ c ≠ '\t' ∧ c ≠ ';') → (∀ c ∈ rest.head?, c = ' ' ∨ c = '\t' ∨ c = ';') →
    readLine (gap ++ a ++ rest) = readLine (gap ++ b ++ rest))

/-- R64 and R65: the expansions of `PUSHW` and `FRAME`. -/
def Obligations.PseudoInstructionsExpand : Prop :=
  (∀ v : Half, assemble (.pushw v.toNat) =
    some [encode (.push (v.extractLsb' 8 8)), encode (.push (v.extractLsb' 0 8))]) ∧
  (∀ bytes : List Byte, 2 ≤ bytes.length → bytes.length ≤ 65535 →
    ∃ words, assemble (.frame (bytes.map BitVec.toNat)) = some words ∧
      words = encode (.start (BitVec.ofNat 16 bytes.length)) :: bytes.map (fun b => encode (.push b)) ∧
      words.length = bytes.length + 1) ∧
  (∀ bytes : List Nat, bytes.length < 2 → assemble (.frame bytes) = none)

/-- What the disassembler prints of any word, the assembler reads back as that word (R62, R63; the operand's base is the
model's choice, log 9); an illegal word is printed as `.word 0x` and eight digits. -/
def Obligations.DisassembledTextAssemblesToTheWord : Prop :=
  (∀ w : Word, assembleText (disassemble w) = some [w]) ∧
  (∀ (w : Word) (why : Illegal), decode w = .error why →
    disassemble w = ['.', 'w', 'o', 'r', 'd', ' ', '0', 'x'] ++ hexText 8 w ∧ (hexText 8 w).length = 8)
end

