-- ==== Sys2Proof/Laws/Decode.lean ====
section
/-! SUPPORT. The fields of a word put together from its fields, and the other way round; what the decoder says of a word
by its fields. -/

namespace Sys2Proof

@[simp] theorem opField_commandWord (op : BitVec 4) (imm : Half) : opField (commandWord op imm) = op := by
  ext i hi
  simp only [opField, commandWord, BitVec.getElem_extractLsb', BitVec.getLsbD_append]
  have h1 : ¬ (28 + i < 16) := by omega
  have h2 : ¬ (28 + i - 16 < 12) := by omega
  have h3 : 28 + i - 16 - 12 = i := by omega
  simp [h1, h2, h3, BitVec.getLsbD_eq_getElem hi]

@[simp] theorem rsvField_commandWord (op : BitVec 4) (imm : Half) : rsvField (commandWord op imm) = 0 := by
  ext i hi
  simp only [rsvField, commandWord, BitVec.getElem_extractLsb', BitVec.getLsbD_append]
  have h1 : ¬ (16 + i < 16) := by omega
  have h2 : 16 + i - 16 < 12 := by omega
  simp only [h1, h2]
  simp

@[simp] theorem immField_commandWord (op : BitVec 4) (imm : Half) : immField (commandWord op imm) = imm := by
  ext i hi
  simp only [immField, commandWord, BitVec.getElem_extractLsb', BitVec.getLsbD_append]
  simp [hi]

theorem commandWord_of_fields (w : Word) (h : rsvField w = 0) : commandWord (opField w) (immField w) = w := by
  refine BitVec.eq_of_getLsbD_eq fun i hi => ?_
  have hr := congrArg (BitVec.getLsbD · (i - 16)) h
  simp only [rsvField, opField, immField, commandWord, BitVec.getLsbD_append, BitVec.getLsbD_extractLsb'] at hr ⊢
  by_cases h1 : i < 16
  · simp [h1]
  · by_cases h2 : i - 16 < 12
    · have e : 16 + (i - 16) = i := by omega
      rw [e] at hr
      simp only [h2, decide_true, Bool.true_and] at hr
      simp [h1, h2, hr]
    · have e : 28 + (i - 16 - 12) = i := by omega
      have l : i - 16 - 12 < 4 := by omega
      simp [h1, h2, e, l]

@[simp] theorem immHigh_zero_append (b : Byte) : immHigh (0#8 ++ b) = 0 := by
  ext i hi
  simp only [immHigh, BitVec.getElem_extractLsb', BitVec.getLsbD_append]
  simp

@[simp] theorem immByte_zero_append (b : Byte) : immByte (0#8 ++ b) = b := by
  ext i hi
  simp only [immByte, BitVec.getElem_extractLsb', BitVec.getLsbD_append]
  simp [hi]

theorem zero_append_immByte (imm : Half) (h : immHigh imm = 0) : 0#8 ++ immByte imm = imm := by
  refine BitVec.eq_of_getLsbD_eq fun i hi => ?_
  have hr := congrArg (BitVec.getLsbD · (i - 8)) h
  simp only [immHigh, immByte, BitVec.getLsbD_append, BitVec.getLsbD_extractLsb'] at hr ⊢
  by_cases h1 : i < 8
  · simp [h1]
  · have e : 8 + (i - 8) = i := by omega
    have l : i - 8 < 8 := by omega
    rw [e] at hr
    simp only [l, decide_true, Bool.true_and] at hr
    simp [h1, hr]

@[simp] theorem decode_commandWord (op : BitVec 4) (imm : Half) : decode (commandWord op imm) = decodeOp op imm := by
  simp [decode]

/-- A word that decodes has `RSV = 0`, so it is put together from its opcode and its operand. -/
theorem decode_ok_fields {w : Word} {i : Instr} (h : decode w = .ok i) :
    w = commandWord (opField w) (immField w) ∧ decodeOp (opField w) (immField w) = .ok i := by
  unfold decode at h
  split at h
  · exact ⟨(commandWord_of_fields w ‹_›).symm, h⟩
  · cases h

theorem withoutOperand_ok {imm : Half} {i j : Instr} : withoutOperand imm i = .ok j ↔ imm = 0 ∧ i = j := by
  unfold withoutOperand
  split <;> simp_all

/-- Everything a decoded opcode and operand can be (R59). -/
theorem decodeOp_ok_cases {op : BitVec 4} {imm : Half} {i : Instr} (h : decodeOp op imm = .ok i) :
    (op = 1#4 ∧ i = .start imm) ∨
    (op = 2#4 ∧ immHigh imm = 0 ∧ i = .push (immByte imm)) ∨
    (imm = 0 ∧ ((op = 0#4 ∧ i = .nop) ∨ (op = 3#4 ∧ i = .abort) ∨ (op = 4#4 ∧ i = .clrerr) ∨ (op = 5#4 ∧ i = .rdstat) ∨
      (op = 6#4 ∧ i = .rdacc) ∨ (op = 7#4 ∧ i = .rdchk) ∨ (op = 8#4 ∧ i = .rdcnt) ∨ (op = 9#4 ∧ i = .rdlen) ∨
      (op = 10#4 ∧ i = .rderrw))) := by
  have hop : op = BitVec.ofNat 4 op.toNat := by simp
  unfold decodeOp at h
  split at h
  case h_12 => cases h
  all_goals
    rename_i hn
    rw [hn] at hop
    subst hop
    first
      | (obtain ⟨rfl, rfl⟩ := withoutOperand_ok.mp h; simp)
      | (cases h; simp)
      | (split at h <;> cases h; simp_all)

end Sys2Proof
end

