-- ==== Sys2Proof/Laws/State.lean ====
section
/-! SUPPORT. One lemma per field per update, of the block and of the machine, all true by rfl. -/

namespace Sys2Proof.Machine

@[simp] theorem Block.clearErrors_acc (b : Block) : (b.clearErrors).acc = b.acc := rfl
@[simp] theorem Block.clearErrors_cnt (b : Block) : (b.clearErrors).cnt = b.cnt := rfl
@[simp] theorem Block.clearErrors_len (b : Block) : (b.clearErrors).len = b.len := rfl
@[simp] theorem Block.clearErrors_chk (b : Block) : (b.clearErrors).chk = b.chk := rfl
@[simp] theorem Block.clearErrors_busy (b : Block) : (b.clearErrors).busy = b.busy := rfl
@[simp] theorem Block.clearErrors_done (b : Block) : (b.clearErrors).done = b.done := rfl
@[simp] theorem Block.clearErrors_matched (b : Block) : (b.clearErrors).matched = b.matched := rfl
@[simp] theorem Block.clearErrors_errIll (b : Block) : (b.clearErrors).errIll = false := rfl
@[simp] theorem Block.clearErrors_errLen (b : Block) : (b.clearErrors).errLen = false := rfl
@[simp] theorem Block.clearErrors_errOvr (b : Block) : (b.clearErrors).errOvr = false := rfl
@[simp] theorem Block.clearErrors_ecode (b : Block) : (b.clearErrors).ecode = 0#4 := rfl
@[simp] theorem Block.clearErrors_errw (b : Block) : (b.clearErrors).errw = 0#32 := rfl

@[simp] theorem Block.openFrame_acc (b : Block) (n : Half) : (b.openFrame n).acc = 0#16 := rfl
@[simp] theorem Block.openFrame_cnt (b : Block) (n : Half) : (b.openFrame n).cnt = 0#16 := rfl
@[simp] theorem Block.openFrame_len (b : Block) (n : Half) : (b.openFrame n).len = n := rfl
@[simp] theorem Block.openFrame_chk (b : Block) (n : Half) : (b.openFrame n).chk = 0#16 := rfl
@[simp] theorem Block.openFrame_busy (b : Block) (n : Half) : (b.openFrame n).busy = true := rfl
@[simp] theorem Block.openFrame_done (b : Block) (n : Half) : (b.openFrame n).done = false := rfl
@[simp] theorem Block.openFrame_matched (b : Block) (n : Half) : (b.openFrame n).matched = false := rfl
@[simp] theorem Block.openFrame_errIll (b : Block) (n : Half) : (b.openFrame n).errIll = b.errIll := rfl
@[simp] theorem Block.openFrame_errLen (b : Block) (n : Half) : (b.openFrame n).errLen = b.errLen := rfl
@[simp] theorem Block.openFrame_errOvr (b : Block) (n : Half) : (b.openFrame n).errOvr = b.errOvr := rfl
@[simp] theorem Block.openFrame_ecode (b : Block) (n : Half) : (b.openFrame n).ecode = b.ecode := rfl
@[simp] theorem Block.openFrame_errw (b : Block) (n : Half) : (b.openFrame n).errw = b.errw := rfl

@[simp] theorem Block.abandonFrame_acc (b : Block) : (b.abandonFrame).acc = b.acc := rfl
@[simp] theorem Block.abandonFrame_cnt (b : Block) : (b.abandonFrame).cnt = b.cnt := rfl
@[simp] theorem Block.abandonFrame_len (b : Block) : (b.abandonFrame).len = b.len := rfl
@[simp] theorem Block.abandonFrame_chk (b : Block) : (b.abandonFrame).chk = b.chk := rfl
@[simp] theorem Block.abandonFrame_busy (b : Block) : (b.abandonFrame).busy = false := rfl
@[simp] theorem Block.abandonFrame_done (b : Block) : (b.abandonFrame).done = false := rfl
@[simp] theorem Block.abandonFrame_matched (b : Block) : (b.abandonFrame).matched = false := rfl
@[simp] theorem Block.abandonFrame_errIll (b : Block) : (b.abandonFrame).errIll = b.errIll := rfl
@[simp] theorem Block.abandonFrame_errLen (b : Block) : (b.abandonFrame).errLen = b.errLen := rfl
@[simp] theorem Block.abandonFrame_errOvr (b : Block) : (b.abandonFrame).errOvr = b.errOvr := rfl
@[simp] theorem Block.abandonFrame_ecode (b : Block) : (b.abandonFrame).ecode = b.ecode := rfl
@[simp] theorem Block.abandonFrame_errw (b : Block) : (b.abandonFrame).errw = b.errw := rfl

@[simp] theorem Block.takeData_acc (b : Block) (v : Byte) : (b.takeData v).acc = addByte b.acc v := rfl
@[simp] theorem Block.takeData_cnt (b : Block) (v : Byte) : (b.takeData v).cnt = b.cnt + 1 := rfl
@[simp] theorem Block.takeData_len (b : Block) (v : Byte) : (b.takeData v).len = b.len := rfl
@[simp] theorem Block.takeData_chk (b : Block) (v : Byte) : (b.takeData v).chk = b.chk := rfl
@[simp] theorem Block.takeData_busy (b : Block) (v : Byte) : (b.takeData v).busy = b.busy := rfl
@[simp] theorem Block.takeData_done (b : Block) (v : Byte) : (b.takeData v).done = b.done := rfl
@[simp] theorem Block.takeData_matched (b : Block) (v : Byte) : (b.takeData v).matched = b.matched := rfl
@[simp] theorem Block.takeData_errIll (b : Block) (v : Byte) : (b.takeData v).errIll = b.errIll := rfl
@[simp] theorem Block.takeData_errLen (b : Block) (v : Byte) : (b.takeData v).errLen = b.errLen := rfl
@[simp] theorem Block.takeData_errOvr (b : Block) (v : Byte) : (b.takeData v).errOvr = b.errOvr := rfl
@[simp] theorem Block.takeData_ecode (b : Block) (v : Byte) : (b.takeData v).ecode = b.ecode := rfl
@[simp] theorem Block.takeData_errw (b : Block) (v : Byte) : (b.takeData v).errw = b.errw := rfl

@[simp] theorem Block.takeHigh_acc (b : Block) (v : Byte) : (b.takeHigh v).acc = b.acc := rfl
@[simp] theorem Block.takeHigh_cnt (b : Block) (v : Byte) : (b.takeHigh v).cnt = b.cnt + 1 := rfl
@[simp] theorem Block.takeHigh_len (b : Block) (v : Byte) : (b.takeHigh v).len = b.len := rfl
@[simp] theorem Block.takeHigh_chk (b : Block) (v : Byte) : (b.takeHigh v).chk = withHighByte b.chk v := rfl
@[simp] theorem Block.takeHigh_busy (b : Block) (v : Byte) : (b.takeHigh v).busy = b.busy := rfl
@[simp] theorem Block.takeHigh_done (b : Block) (v : Byte) : (b.takeHigh v).done = b.done := rfl
@[simp] theorem Block.takeHigh_matched (b : Block) (v : Byte) : (b.takeHigh v).matched = b.matched := rfl
@[simp] theorem Block.takeHigh_errIll (b : Block) (v : Byte) : (b.takeHigh v).errIll = b.errIll := rfl
@[simp] theorem Block.takeHigh_errLen (b : Block) (v : Byte) : (b.takeHigh v).errLen = b.errLen := rfl
@[simp] theorem Block.takeHigh_errOvr (b : Block) (v : Byte) : (b.takeHigh v).errOvr = b.errOvr := rfl
@[simp] theorem Block.takeHigh_ecode (b : Block) (v : Byte) : (b.takeHigh v).ecode = b.ecode := rfl
@[simp] theorem Block.takeHigh_errw (b : Block) (v : Byte) : (b.takeHigh v).errw = b.errw := rfl

@[simp] theorem Block.takeLow_acc (b : Block) (v : Byte) : (b.takeLow v).acc = b.acc := rfl
@[simp] theorem Block.takeLow_cnt (b : Block) (v : Byte) : (b.takeLow v).cnt = b.cnt + 1 := rfl
@[simp] theorem Block.takeLow_len (b : Block) (v : Byte) : (b.takeLow v).len = b.len := rfl
@[simp] theorem Block.takeLow_chk (b : Block) (v : Byte) : (b.takeLow v).chk = withLowByte b.chk v := rfl
@[simp] theorem Block.takeLow_busy (b : Block) (v : Byte) : (b.takeLow v).busy = false := rfl
@[simp] theorem Block.takeLow_done (b : Block) (v : Byte) : (b.takeLow v).done = true := rfl
@[simp] theorem Block.takeLow_matched (b : Block) (v : Byte) : (b.takeLow v).matched = (b.acc == withLowByte b.chk v) := rfl
@[simp] theorem Block.takeLow_errIll (b : Block) (v : Byte) : (b.takeLow v).errIll = b.errIll := rfl
@[simp] theorem Block.takeLow_errLen (b : Block) (v : Byte) : (b.takeLow v).errLen = b.errLen := rfl
@[simp] theorem Block.takeLow_errOvr (b : Block) (v : Byte) : (b.takeLow v).errOvr = b.errOvr := rfl
@[simp] theorem Block.takeLow_ecode (b : Block) (v : Byte) : (b.takeLow v).ecode = b.ecode := rfl
@[simp] theorem Block.takeLow_errw (b : Block) (v : Byte) : (b.takeLow v).errw = b.errw := rfl

@[simp] theorem Block.reset_acc : Block.reset.acc = 0#16 := rfl
@[simp] theorem Block.reset_cnt : Block.reset.cnt = 0#16 := rfl
@[simp] theorem Block.reset_len : Block.reset.len = 0#16 := rfl
@[simp] theorem Block.reset_chk : Block.reset.chk = 0#16 := rfl
@[simp] theorem Block.reset_busy : Block.reset.busy = false := rfl
@[simp] theorem Block.reset_done : Block.reset.done = false := rfl
@[simp] theorem Block.reset_matched : Block.reset.matched = false := rfl
@[simp] theorem Block.reset_errIll : Block.reset.errIll = false := rfl
@[simp] theorem Block.reset_errLen : Block.reset.errLen = false := rfl
@[simp] theorem Block.reset_errOvr : Block.reset.errOvr = false := rfl
@[simp] theorem Block.reset_ecode : Block.reset.ecode = 0#4 := rfl
@[simp] theorem Block.reset_errw : Block.reset.errw = 0#32 := rfl

@[simp] theorem State.respond_block (s : State) (v : Word) : (s.respond v).block = s.block := rfl
@[simp] theorem State.respond_wasReset (s : State) (v : Word) : (s.respond v).wasReset = s.wasReset := rfl
@[simp] theorem State.respond_inputs (s : State) (v : Word) : (s.respond v).inputs = s.inputs := rfl
@[simp] theorem State.respond_responses (s : State) (v : Word) : (s.respond v).responses = s.responses ++ [v] := rfl
@[simp] theorem State.respond_draws (s : State) (v : Word) : (s.respond v).draws = s.draws := rfl

@[simp] theorem State.effect_block (s : State) (b : Block) : (s.effect b).block = b := rfl
@[simp] theorem State.effect_wasReset (s : State) (b : Block) : (s.effect b).wasReset = s.wasReset := rfl
@[simp] theorem State.effect_inputs (s : State) (b : Block) : (s.effect b).inputs = s.inputs := rfl
@[simp] theorem State.effect_responses (s : State) (b : Block) : (s.effect b).responses = s.responses ++ [b.status] := rfl
@[simp] theorem State.effect_draws (s : State) (b : Block) : (s.effect b).draws = s.draws := rfl

@[simp] theorem State.applyReset_block (s : State) : (s.applyReset).block = Block.reset := rfl
@[simp] theorem State.applyReset_wasReset (s : State) : (s.applyReset).wasReset = true := rfl
@[simp] theorem State.applyReset_inputs (s : State) : (s.applyReset).inputs = s.inputs := rfl
@[simp] theorem State.applyReset_responses (s : State) : (s.applyReset).responses = s.responses := rfl
@[simp] theorem State.applyReset_draws (s : State) : (s.applyReset).draws = s.draws := rfl

@[simp] theorem State.cutByReset_block (s : State) : (s.cutByReset).block = Block.reset := rfl
@[simp] theorem State.cutByReset_wasReset (s : State) : (s.cutByReset).wasReset = true := rfl
@[simp] theorem State.cutByReset_inputs (s : State) : (s.cutByReset).inputs = s.inputs := rfl
@[simp] theorem State.cutByReset_responses (s : State) : (s.cutByReset).responses = s.responses ++ (Config.overlapResponse s.draws).toList := rfl
@[simp] theorem State.cutByReset_draws (s : State) : (s.cutByReset).draws = s.draws + 1 := rfl

@[simp] theorem State.offer_block (s : State) (w : Word) : (s.offer w).block = s.block := rfl
@[simp] theorem State.offer_wasReset (s : State) (w : Word) : (s.offer w).wasReset = s.wasReset := rfl
@[simp] theorem State.offer_inputs (s : State) (w : Word) : (s.offer w).inputs = .command w :: s.inputs := rfl
@[simp] theorem State.offer_responses (s : State) (w : Word) : (s.offer w).responses = s.responses := rfl
@[simp] theorem State.offer_draws (s : State) (w : Word) : (s.offer w).draws = s.draws := rfl

@[simp] theorem State.reset_block : State.reset.block = Block.reset := rfl
@[simp] theorem State.reset_wasReset : State.reset.wasReset = true := rfl
@[simp] theorem State.reset_inputs : State.reset.inputs = [] := rfl
@[simp] theorem State.reset_responses : State.reset.responses = [] := rfl
@[simp] theorem State.reset_draws : State.reset.draws = 0 := rfl

@[simp] theorem State.powerUp_block (pre : Block) : (State.powerUp pre).block = pre := rfl
@[simp] theorem State.powerUp_wasReset (pre : Block) : (State.powerUp pre).wasReset = false := rfl
@[simp] theorem State.powerUp_inputs (pre : Block) : (State.powerUp pre).inputs = [] := rfl
@[simp] theorem State.powerUp_responses (pre : Block) : (State.powerUp pre).responses = [] := rfl
@[simp] theorem State.powerUp_draws (pre : Block) : (State.powerUp pre).draws = 0 := rfl

end Sys2Proof.Machine
end

