-- ==== Sys2Proof/Laws/Ops.lean ====
section
/-! SUPPORT. One lemma per shared operation that says all it does: the error record, the placing of a byte, and the order of
a frame's parts. -/

namespace Sys2Proof.Machine

/-- All that the error record writes (60_exceptions.md R121, R122). -/
theorem Block.recordError_eq (b : Block) (c : ErrorCause) (w : Word) :
    b.recordError c w = { b with
      errIll := b.errIll || decide (c = .ill)
      errLen := b.errLen || decide (c = .len)
      errOvr := b.errOvr || decide (c = .ovr)
      ecode := if b.ecode = 0#4 then errorCode c else b.ecode
      errw := if b.ecode = 0#4 then w else b.errw } := by
  cases c <;> by_cases h : b.ecode = 0#4 <;> simp [Block.recordError, Block.setErrorFlag, h]

theorem Block.recordError_sameFrame (b : Block) (c : ErrorCause) (w : Word) : (b.recordError c w).sameFrame b := by
  simp [Block.sameFrame, Block.recordError_eq]

theorem Block.clearErrors_sameFrame (b : Block) : b.clearErrors.sameFrame b := by
  simp [Block.sameFrame]

/-- The three places of a byte in an open frame (10_state.md R32, 41_accumulate.md R87). -/
theorem Block.takeByte_cases (b : Block) (v : Byte) :
    (b.cnt.toNat + 2 < b.len.toNat ∧ b.takeByte v = b.takeData v) ∨
    (b.cnt.toNat + 2 = b.len.toNat ∧ b.takeByte v = b.takeHigh v) ∨
    (b.len.toNat < b.cnt.toNat + 2 ∧ b.takeByte v = b.takeLow v) := by
  unfold Block.takeByte nextIsData nextIsHigh
  rcases Nat.lt_trichotomy (b.cnt.toNat + 2) b.len.toNat with h | h | h
  · exact .inl ⟨h, by simp [h]⟩
  · exact .inr (.inl ⟨h, by simp [h]⟩)
  · exact .inr (.inr ⟨h, by simp [Nat.not_lt_of_gt h, Nat.ne_of_gt h]⟩)

theorem Block.takeByte_sameErrors (b : Block) (v : Byte) : (b.takeByte v).sameErrors b := by
  obtain ⟨-, h⟩ | ⟨-, h⟩ | ⟨-, h⟩ := b.takeByte_cases v <;> simp [Block.sameErrors, h]

theorem Block.takeByte_cnt (b : Block) (v : Byte) : (b.takeByte v).cnt = b.cnt + 1 := by
  obtain ⟨-, h⟩ | ⟨-, h⟩ | ⟨-, h⟩ := b.takeByte_cases v <;> simp [h]

theorem Block.takeByte_len (b : Block) (v : Byte) : (b.takeByte v).len = b.len := by
  obtain ⟨-, h⟩ | ⟨-, h⟩ | ⟨-, h⟩ := b.takeByte_cases v <;> simp [h]

/-- Everything an open frame's phase can be, by `CNT` and `LEN` (R32). -/
theorem Block.phase_of_busy {b : Block} (hb : b.busy = true) (hc : b.cnt.toNat < b.len.toNat) :
    (b.cnt.toNat + 2 < b.len.toNat ∧ b.phase = .data) ∨ (b.cnt.toNat + 2 = b.len.toNat ∧ b.phase = .chkHi) ∨
    (b.cnt.toNat + 1 = b.len.toNat ∧ b.phase = .chkLo) := by
  unfold Block.phase nextIsData nextIsHigh nextIsLow
  by_cases h1 : b.cnt.toNat + 2 < b.len.toNat
  · exact .inl ⟨h1, by simp [hb, h1]⟩
  · by_cases h2 : b.cnt.toNat + 2 = b.len.toNat
    · exact .inr (.inl ⟨h2, by simp [hb, h2]⟩)
    · have h3 : b.cnt.toNat + 1 = b.len.toNat := by omega
      exact .inr (.inr ⟨h3, by simp [hb, h1, h2, h3]⟩)

@[simp] theorem Block.phase_of_idle {b : Block} (hb : b.busy = false) : b.phase = .idle := by simp [Block.phase, hb]

/-- A byte in the high half of the field, then the low half (20_memory.md R43). -/
@[simp] theorem withHighByte_high (chk : Half) (v : Byte) : (withHighByte chk v).extractLsb' 8 8 = v := by
  ext i hi
  simp only [withHighByte, BitVec.getElem_extractLsb', BitVec.getLsbD_append]
  simp [hi]

@[simp] theorem withHighByte_low (chk : Half) (v : Byte) :
    (withHighByte chk v).extractLsb' 0 8 = chk.extractLsb' 0 8 := by
  ext i hi
  simp only [withHighByte, BitVec.getElem_extractLsb', BitVec.getLsbD_append]
  simp [hi]

@[simp] theorem withLowByte_high (chk : Half) (v : Byte) :
    (withLowByte chk v).extractLsb' 8 8 = chk.extractLsb' 8 8 := by
  ext i hi
  simp only [withLowByte, BitVec.getElem_extractLsb', BitVec.getLsbD_append]
  simp [hi]

@[simp] theorem withLowByte_low (chk : Half) (v : Byte) : (withLowByte chk v).extractLsb' 0 8 = v := by
  ext i hi
  simp only [withLowByte, BitVec.getElem_extractLsb', BitVec.getLsbD_append]
  simp [hi]

end Sys2Proof.Machine
end

