-- ==== Sys2Proof/Laws/PerInstr.lean ====
section
/-! SUPPORT. The family of statements made once per command: its word is the one its row of the opcode map names
(30_encoding.md R56). -/

namespace Sys2Proof.Laws.TableRow

/-- Some row of R56 has the command's mnemonic and names the command's word. -/
def Statement (i : Instr) : Prop := ∃ r ∈ opcodeTable, r.mnemonic = i.mnemonic ∧ r.names (encode i) = true

theorem nop : Statement .nop := by unfold Statement; decide
theorem start (len : Half) : Statement (.start len) := by
  refine ⟨⟨.start, 0x10000000#32, 0xFFFF0000#32⟩, by decide, rfl, ?_⟩
  simp only [OpcodeRow.names, encode, commandWord, beq_iff_eq]
  rw [show (0xFFFF0000#32 : Word) = (0xFFFF#16 ++ 0#16 : BitVec 32) from rfl,
    show ((0x1#4 ++ 0#12 ++ len : BitVec (4 + 12 + 16)) : Word) = (0x1000#16 ++ len : BitVec (16 + 16)) from rfl]
  erw [BitVec.and_append]
  simp
theorem push (byte : Byte) : Statement (.push byte) := by
  refine ⟨⟨.push, 0x20000000#32, 0xFFFFFF00#32⟩, by decide, rfl, ?_⟩
  simp only [OpcodeRow.names, encode, commandWord, beq_iff_eq]
  rw [show (0xFFFFFF00#32 : Word) = (0xFFFFFF#24 ++ 0#8 : BitVec 32) from rfl,
    show ((0x2#4 ++ 0#12 ++ (0#8 ++ byte) : BitVec (4 + 12 + 16)) : Word) = (0x200000#24 ++ byte : BitVec (24 + 8)) from
      BitVec.eq_of_toNat_eq (by simp only [BitVec.toNat_append]; simp)]
  erw [BitVec.and_append]
  simp
theorem abort : Statement .abort := by unfold Statement; decide
theorem clrerr : Statement .clrerr := by unfold Statement; decide
theorem rdstat : Statement .rdstat := by unfold Statement; decide
theorem rdacc : Statement .rdacc := by unfold Statement; decide
theorem rdchk : Statement .rdchk := by unfold Statement; decide
theorem rdcnt : Statement .rdcnt := by unfold Statement; decide
theorem rdlen : Statement .rdlen := by unfold Statement; decide
theorem rderrw : Statement .rderrw := by unfold Statement; decide

end Sys2Proof.Laws.TableRow
end

