-- ==== Sys2Proof/Laws/Step.lean ====
section
/-! SUPPORT. What one step does with each kind of input, every case of a step that answers a next state, and how runs
compose. -/

namespace Sys2Proof.Machine

@[simp] theorem State.present_block (s : State) (es : List Input) : (s.present es).block = s.block := rfl
@[simp] theorem State.present_wasReset (s : State) (es : List Input) : (s.present es).wasReset = s.wasReset := rfl
@[simp] theorem State.present_inputs (s : State) (es : List Input) : (s.present es).inputs = es := rfl
@[simp] theorem State.present_responses (s : State) (es : List Input) : (s.present es).responses = s.responses := rfl
@[simp] theorem State.present_draws (s : State) (es : List Input) : (s.present es).draws = s.draws := rfl

theorem step_idle {s : State} (h : s.inputs = []) : step s = .next s := by simp [step, takeNext, h]

theorem step_command {s : State} {w : Word} {rest : List Input} (h : s.accepts w rest) :
    step s = acceptWord w { s with inputs := rest } := by
  simp [step, takeNext, h.2, takeInput, h.1]

theorem step_reset {s : State} {rest : List Input} (h : s.inputs = .reset :: rest) :
    step s = .next { s with inputs := rest, block := Block.reset, wasReset := true } := by
  simp [step, takeNext, h, takeInput, State.applyReset]

theorem step_cut {s : State} {w : Word} {rest : List Input} (h : s.inputs = .commandCutByReset w :: rest) :
    step s = .next (State.cutByReset { s with inputs := rest }) := by
  simp [step, takeNext, h, takeInput]

theorem step_refused {s : State} {w : Word} {rest : List Input} (hr : s.wasReset = false)
    (h : s.inputs = .command w :: rest) : step s = .refused .commandBeforeFirstReset := by
  simp [step, takeNext, h, takeInput, hr]

/-- Every way a step answers a next state. -/
theorem step_next_cases {s t : State} (h : step s = .next t) :
    (s.inputs = [] ∧ t = s) ∨
    (∃ w rest, s.accepts w rest ∧ acceptWord w { s with inputs := rest } = .next t) ∨
    (∃ rest, s.inputs = .reset :: rest ∧ t = { s with inputs := rest, block := Block.reset, wasReset := true }) ∨
    (∃ w rest, s.inputs = .commandCutByReset w :: rest ∧
      t = State.cutByReset { s with inputs := rest }) := by
  cases hi : s.inputs with
  | nil =>
    rw [step_idle hi] at h
    cases h
    exact .inl ⟨rfl, rfl⟩
  | cons e rest =>
    cases e with
    | command w =>
      cases hr : s.wasReset with
      | false =>
        rw [step_refused hr hi] at h
        cases h
      | true =>
        rw [step_command ⟨hr, hi⟩] at h
        exact .inr (.inl ⟨w, rest, ⟨hr, hi⟩, hr ▸ h⟩)
    | reset =>
      rw [step_reset hi] at h
      cases h
      exact .inr (.inr (.inl ⟨rest, rfl, rfl⟩))
    | commandCutByReset w =>
      rw [step_cut hi] at h
      cases h
      exact .inr (.inr (.inr ⟨w, rest, rfl, rfl⟩))

/-- What an accepted word does, by what it decodes to. -/
theorem acceptWord_ok {w : Word} {i : Instr} (h : decode w = .ok i) (s : State) : acceptWord w s = exec i s := by
  simp [acceptWord, h]

theorem acceptWord_error {w : Word} {why : Illegal} (h : decode w = .error why) (s : State) :
    acceptWord w s = .next (raiseError .ill w s) := by
  simp [acceptWord, h, execIllegal]

@[simp] theorem run_zero (s : State) : run 0 s = .next s := rfl

theorem run_succ {s t : State} (h : step s = .next t) (n : Nat) : run (n + 1) s = run n t := by simp [run, h]

theorem run_add {m : Nat} {s t : State} (h : run m s = .next t) (n : Nat) : run (m + n) s = run n t := by
  induction m generalizing s with
  | zero =>
    cases h
    simp
  | succ m ih =>
    cases hs : step s with
    | next u =>
      rw [run_succ hs] at h
      rw [Nat.succ_add_eq_add_succ, Nat.add_succ, run_succ hs]
      exact ih h
    | fault r => simp [run, hs] at h
    | refused r => simp [run, hs] at h

/-- One step of the host's run, of any machine. -/
theorem host_run_next (M : Host.Core) {s t : M.State} (h : M.step s = .next t) (n : Nat) : M.run (n + 1) s = M.run n t := by
  rw [Host.Core.run, h]

theorem host_run_fault (M : Host.Core) {s : M.State} {r : M.Fault} (h : M.step s = .fault r) (n : Nat) :
    M.run (n + 1) s = .fault r := by
  rw [Host.Core.run, h]

theorem host_run_refused (M : Host.Core) {s : M.State} {r : M.Refusal} (h : M.step s = .refused r) (n : Nat) :
    M.run (n + 1) s = .refused r := by
  rw [Host.Core.run, h]

/-- The model's `run` is the host's, of the machine it hands over. -/
theorem run_eq_host_run (n : Nat) (s : State) : run n s = Host.Core.run Sys2Proof.core n s := by
  induction n generalizing s with
  | zero => rfl
  | succ n ih =>
    cases hs : step s with
    | next t => exact (run_succ hs n).trans ((ih t).trans (host_run_next Sys2Proof.core hs n).symm)
    | fault r =>
      rw [run, hs]
      exact (host_run_fault Sys2Proof.core hs n).symm
    | refused r =>
      rw [run, hs]
      exact (host_run_refused Sys2Proof.core hs n).symm

end Sys2Proof.Machine
end

