-- ==== Sys2Proof/Tests/Slice0.lean ====
section
/-! SUPPORT. Tests of the model against words and values the spec writes out, one step each, and a witness for the hypotheses
of every statement that has any. Each test's comment names the passage its expected values come from. -/

namespace Sys2Proof.Tests
open Sys2Proof.Machine

/-! ### Helpers -/

/-- The next state of an outcome. -/
def stateOf : Host.Outcome State Fault Refusal → Option State
  | .next s => some s
  | .fault _ => none
  | .refused _ => none

/-- The last response and the block of an outcome. -/
def seen (o : Host.Outcome State Fault Refusal) : Option (Option Word × Block) :=
  (stateOf o).map (fun s => (s.responses.getLast?, s.block))

/-- An open frame. -/
def openBlock (acc cnt len chk : Half) : Block :=
  { Block.reset with acc := acc, cnt := cnt, len := len, chk := chk, busy := true }

/-- The machine after a reset with this block. -/
def withBlock (b : Block) : State := { State.reset with block := b }

/-- The machine after a reset with this block and one word at its port. -/
def offered (b : Block) (w : Word) : State := (withBlock b).offer w

/-- The idle block with the error record of ER1's first word, `PUSH 1` (95_test_vectors.md). -/
def overrunBlock : Block := { Block.reset with errOvr := true, ecode := 3#4, errw := 0x20000001#32 }

/-! ### Parameters and well-formedness -/

/-- 00_scope.md R7. -/
theorem test_parameters :
    Byte = BitVec Config.wByte ∧ Half = BitVec Config.wSum ∧ Half = BitVec Config.wLen ∧ Word = BitVec Config.wCmd ∧
      Word = BitVec Config.wRsp ∧ Config.lenMax = 2 ^ 16 - 1 ∧ Config.lenMin = 2 ∧ Config.nInst = 1 :=
  ⟨rfl, rfl, rfl, rfl, rfl, rfl, rfl, rfl⟩

/-- 30_encoding.md R62: the range of `<len>` and of `<byte>`, and the operand each mnemonic takes or does not. -/
theorem test_refused_operands :
    (SourceLine.command .start (some 65536)).wellFormed = false ∧ (SourceLine.command .start none).wellFormed = false ∧
    (SourceLine.command .push (some 256)).wellFormed = false ∧ (SourceLine.command .push none).wellFormed = false ∧
    (SourceLine.command .nop (some 0)).wellFormed = false ∧ (SourceLine.command .rdacc (some 0)).wellFormed = false ∧
    (SourceLine.command .start (some 65535)).wellFormed = true ∧ (SourceLine.command .push (some 255)).wellFormed = true :=
  by decide

/-- 30_encoding.md R63 to R65: a word of 33 bits, a PUSHW of 17 bits, a FRAME of one byte, a FRAME with a byte of 256. -/
theorem test_refused_lines :
    (SourceLine.word (2 ^ 32)).wellFormed = false ∧ (SourceLine.pushw 65536).wellFormed = false ∧
    (SourceLine.frame [0]).wellFormed = false ∧ (SourceLine.frame [0, 256]).wellFormed = false ∧
    (SourceLine.frameck [256]).wellFormed = false ∧ (SourceLine.frame [0, 255]).wellFormed = true ∧
    (SourceLine.frameck []).wellFormed = true := by decide

/-- 30_encoding.md R66: `k + 2` must not exceed 65535. -/
theorem test_refused_frameck_length : (SourceLine.frameck (List.replicate 65534 0)).wellFormed = false := by
  rw [SourceLine.wellFormed, List.length_replicate]
  rfl

/-- 30_encoding.md R65 with R62's range of `<len>`: a frame of 65536 bytes has no `START`. -/
theorem test_refused_frame_length : (SourceLine.frame (List.replicate 65536 0)).wellFormed = false := by
  rw [SourceLine.wellFormed, List.length_replicate]
  rfl

/-! ### Decoding, from words written out from 30_encoding.md R55 and R56 -/

theorem test_decode_nop : decode 0b0000000000000000_0000000000000000#32 = .ok .nop := rfl
theorem test_decode_start : decode 0b0001000000000000_0000000001001111#32 = .ok (.start 79#16) := rfl
theorem test_decode_start_top : decode 0b0001000000000000_1000000000000001#32 = .ok (.start 0x8001#16) := rfl
theorem test_decode_push : decode 0b0010000000000000_0000000010000001#32 = .ok (.push 0x81#8) := rfl
theorem test_decode_abort : decode 0b0011000000000000_0000000000000000#32 = .ok .abort := rfl
theorem test_decode_clrerr : decode 0b0100000000000000_0000000000000000#32 = .ok .clrerr := rfl
theorem test_decode_rdstat : decode 0b0101000000000000_0000000000000000#32 = .ok .rdstat := rfl
theorem test_decode_rdacc : decode 0b0110000000000000_0000000000000000#32 = .ok .rdacc := rfl
theorem test_decode_rdchk : decode 0b0111000000000000_0000000000000000#32 = .ok .rdchk := rfl
theorem test_decode_rdcnt : decode 0b1000000000000000_0000000000000000#32 = .ok .rdcnt := rfl
theorem test_decode_rdlen : decode 0b1001000000000000_0000000000000000#32 = .ok .rdlen := rfl
theorem test_decode_rderrw : decode 0b1010000000000000_0000000000000000#32 = .ok .rderrw := rfl

/-- The words of ER4, ER5, FC6, FC12, AC12, AC13, MT2 and RD4 (95_test_vectors.md) are illegal. -/
theorem test_decode_illegal :
    ([0xB0000000#32, 0xC0000000#32, 0xD0000000#32, 0xE0000000#32, 0xF0000000#32, 0x5FFF0000#32, 0x10010001#32,
      0x30000001#32, 0x20000100#32, 0x20100000#32, 0x00000001#32, 0x60000001#32].all
        (fun w => (decode w).toOption == none)) = true := by decide

/-- 30_encoding.md R62: `START n` is `0x10000000 | n` and `PUSH b` is `0x20000000 | b`. -/
theorem test_encode : encode (.start 0xFFFF#16) = 0x1000FFFF#32 ∧ encode (.push 0xAA#8) = 0x200000AA#32 ∧
    encode .rderrw = 0xA0000000#32 := by decide

theorem test_table_word : decodeTableWord 32 0x20000034 = some (.push 0x34#8) := by decide

/-! ### One step of each command, from the vectors of 95_test_vectors.md -/

/-- MT1: `NOP` after `START 79`. -/
theorem test_nop_in_frame :
    seen (exec .nop (withBlock (openBlock 0 0 79 0))) = some (some 0x41#32, openBlock 0 0 79 0) := by decide

/-- FC5: `START 65535` from reset. -/
theorem test_start_longest :
    seen (exec (.start 0xFFFF#16) State.reset) = some (some 0x41#32, openBlock 0 0 0xFFFF 0) := by decide

/-- FC8, its third command: `START 1` in a frame. -/
theorem test_start_refused_in_frame :
    seen (exec (.start 1#16) (withBlock (openBlock 5 1 4 0))) =
      some (some 0x251#32, { openBlock 5 1 4 0 with errLen := true, ecode := 2#4, errw := 0x10000001#32 }) := by decide

/-- P3, its 258th `PUSH 0xFF`: the sum wraps and the phase becomes CHK_HI. -/
theorem test_push_wraps :
    seen (exec (.push 0xFF#8) (withBlock (openBlock 0xFFFF 257 260 0))) =
      some (some 0x81#32, openBlock 0x00FE 258 260 0) := by decide

/-- AC7, its last byte: the field 0x4600 does not match the sum 0x0046. -/
theorem test_push_mismatch :
    seen (exec (.push 0x00#8) (withBlock (openBlock 0x46 3 4 0x4600))) =
      some (some 0x02#32, { openBlock 0x46 4 4 0x4600 with busy := false, done := true }) := by decide

/-- FC10: `ABORT` in a frame keeps the partial values. -/
theorem test_abort_keeps_values :
    seen (exec .abort (withBlock (openBlock 6 3 79 0))) =
      some (some 0x0#32, { openBlock 6 3 79 0 with busy := false }) := by decide

/-- FC11: `ABORT` clears the result of a completed frame. -/
theorem test_abort_clears_result :
    seen (exec .abort (withBlock { openBlock 0 2 2 0 with busy := false, done := true, matched := true })) =
      some (some 0x0#32, { openBlock 0 2 2 0 with busy := false }) := by decide

/-- MT3: `CLRERR` in a frame. -/
theorem test_clrerr_in_frame :
    seen (exec .clrerr (withBlock { openBlock 1 1 4 0 with errIll := true, ecode := 1#4, errw := 0xF0000000#32 })) =
      some (some 0x41#32, openBlock 1 1 4 0) := by decide

/-- ER1, its fourth command: three flags, and the code of the first. -/
theorem test_rdstat_errors :
    seen (exec .rdstat (withBlock { overrunBlock with errIll := true, errLen := true })) =
      some (some 0x338#32, { overrunBlock with errIll := true, errLen := true }) := by decide

/-- P4: `RDACC` after the data bytes. -/
theorem test_rdacc : (seen (exec .rdacc (withBlock (openBlock 0x272 4 6 0)))).map Prod.fst = some (some 0x272#32) := by decide

/-- AC15: `RDCHK` with the high byte received. -/
theorem test_rdchk : (seen (exec .rdchk (withBlock (openBlock 0 1 2 0xAB00)))).map Prod.fst = some (some 0xAB00#32) := by
  decide

/-- RD1: `RDCNT` in CHK_LO. -/
theorem test_rdcnt : (seen (exec .rdcnt (withBlock (openBlock 0x60 4 5 0x3100)))).map Prod.fst = some (some 0x4#32) := by
  decide

/-- RD2: `RDLEN` in a frame of 79 bytes. -/
theorem test_rdlen : (seen (exec .rdlen (withBlock (openBlock 0 0 79 0)))).map Prod.fst = some (some 0x4F#32) := by decide

/-- ER1, its last command: `RDERRW` gives the first faulting word. -/
theorem test_rderrw : (seen (exec .rderrw (withBlock overrunBlock))).map Prod.fst = some (some 0x20000001#32) := by decide

/-- AC11: a `PUSH` from reset. -/
theorem test_overrun :
    seen (step (State.reset.withFetchWord 32 0x20000055)) =
      some (some 0x320#32, { Block.reset with errOvr := true, ecode := 3#4, errw := 0x20000055#32 }) := by decide

/-- AC12: an illegal word in a frame, ILL though its opcode is `PUSH`. -/
theorem test_illegal_in_frame :
    seen (step (offered (openBlock 0 0 4 0) 0x20000100#32)) =
      some (some 0x149#32, { openBlock 0 0 4 0 with errIll := true, ecode := 1#4, errw := 0x20000100#32 }) := by decide

/-- ER1, its second command: a second error sets its own flag and keeps the first record. -/
theorem test_second_error :
    seen (step (offered overrunBlock 0xC0000000#32)) = some (some 0x328#32, { overrunBlock with errIll := true }) := by decide

/-- 70_reset_and_hazards.md R140: reset in a frame, with no response. -/
theorem test_reset_event :
    seen (step ((withBlock (openBlock 5 1 4 0)).present [.reset])) = some (none, Block.reset) := by decide

/-! ### The checksum (95_test_vectors.md AC4, AC10, W5) -/

theorem test_validate_reply : validate [0x12#8, 0x34#8, 0x00#8, 0x46#8] = some true ∧
    validate [0x12#8, 0x34#8, 0x00#8, 0x47#8] = some false ∧ validate [0x12#8] = none := by decide

/-! ### The assembler (30_encoding.md R62 to R66) -/

/-- `start 0x4F ; x`: lower case, hexadecimal, a comment. -/
theorem test_assemble_start :
    assembleText ['s', 't', 'a', 'r', 't', ' ', '0', 'x', '4', 'F', ' ', ';', ' ', 'x'] = some [0x1000004F#32] := by decide

/-- `PUSH 256` is refused, `PUSH 70` is 0x20000046. -/
theorem test_assemble_push :
    assembleText ['P', 'U', 'S', 'H', ' ', '2', '5', '6'] = none ∧
    assembleText ['P', 'U', 'S', 'H', ' ', '7', '0'] = some [0x20000046#32] := by decide

/-- `FRAMECK 0x12, 52`: AC4's frame of four bytes. -/
theorem test_assemble_frameck :
    assembleText ['F', 'R', 'A', 'M', 'E', 'C', 'K', ' ', '0', 'x', '1', '2', ',', ' ', '5', '2'] =
      some [0x10000004#32, 0x20000012#32, 0x20000034#32, 0x20000000#32, 0x20000046#32] := by decide

/-- R63: an illegal word is printed as `.word 0xB0000000`, and read back. -/
theorem test_disassemble_illegal :
    disassemble 0xB0000000#32 = ['.', 'w', 'o', 'r', 'd', ' ', '0', 'x', 'B', '0', '0', '0', '0', '0', '0', '0'] := by decide

/-! ### Witnesses: a state and operands that meet each statement's hypotheses -/

theorem witness_EncodeOfDecodeIsTheWord : decode 0x1000FFFF#32 = .ok (.start 0xFFFF#16) := rfl

theorem witness_OpcodeMapIsExact :
    (⟨.push, 0x20000000#32, 0xFFFFFF00#32⟩ : OpcodeRow) ∈ opcodeTable ∧
    OpcodeRow.names ⟨.push, 0x20000000#32, 0xFFFFFF00#32⟩ 0x200000FF#32 = true ∧
    decode 0x200000FF#32 = .ok (.push 0xFF#8) ∧ decode 0x10000000#32 = .ok (.start 0#16) := by
  refine ⟨by decide, by decide, rfl, rfl⟩

theorem witness_OperandsAreTakenAsTheyStand :
    (1#16).toNat < 2 ∧ (0x00FF#16).extractLsb' 8 8 = 0#8 ∧ (0x0100#16).extractLsb' 8 8 ≠ 0#8 ∧
    ((0#4 : BitVec 4) ≠ 1#4 ∧ (0#4 : BitVec 4) ≠ 2#4 ∧ (0x8000#16 : Half) ≠ 0#16) := by decide

theorem witness_StepRunsTheDecodedCommand :
    (offered Block.reset 0x10000002#32).accepts 0x10000002#32 [] ∧ decode 0x10000002#32 = .ok (.start 2#16) :=
  ⟨by decide, rfl⟩

theorem witness_FetchWordIsTakenNext : State.reset.wasReset = true := rfl

theorem witness_OutcomeDependsOnBlockAndWordAlone :
    ((offered overrunBlock 0xA0000000#32).accepts 0xA0000000#32 [] ∧
      ({ offered overrunBlock 0xA0000000#32 with responses := [0x320#32] } : State).accepts 0xA0000000#32 [] ∧
      (offered overrunBlock 0xA0000000#32).block =
        ({ offered overrunBlock 0xA0000000#32 with responses := [0x320#32] } : State).block) ∧
    ((withBlock overrunBlock).present [.reset]).inputs = [.reset] ∧ State.reset.inputs = [] := by decide

theorem witness_ResponseRule :
    (offered (openBlock 5 1 4 0) 0x60000000#32).accepts 0x60000000#32 [] ∧ decode 0x60000000#32 = .ok .rdacc :=
  ⟨by decide, rfl⟩

theorem witness_StartOpensFrameOrRaisesLen :
    2 ≤ (2#16).toNat ∧ 2 ≤ (0xFFFF#16).toNat ∧ (0#16).toNat < 2 ∧ (1#16).toNat < 2 ∧
    ((0x10010002#32).extractLsb' 28 4 = 1#4 ∧ (0x10010002#32).extractLsb' 16 12 ≠ 0#12) := by decide

theorem witness_AbortClearsFrameAndResult :
    (0x30000001#32).extractLsb' 28 4 = 3#4 ∧ (0x30000001#32 : Word) ≠ 0x30000000#32 := by decide

/-- One block for each branch of R87, at the last count of DATA, at CHK_HI, at CHK_LO, and with no frame open. -/
theorem witness_PushTakesByteOrRaisesOvr :
    ((openBlock 0 0 3 0).busy = true ∧ (((openBlock 0 0 3 0).cnt.toNat : Int) < (openBlock 0 0 3 0).len.toNat - 2)) ∧
    ((openBlock 0 0 2 0).busy = true ∧ (((openBlock 0 0 2 0).cnt.toNat : Int) = (openBlock 0 0 2 0).len.toNat - 2)) ∧
    ((openBlock 0 1 2 0).busy = true ∧ 2 ≤ (openBlock 0 1 2 0).len.toNat ∧
      (((openBlock 0 1 2 0).cnt.toNat : Int) = (openBlock 0 1 2 0).len.toNat - 1)) ∧
    State.reset.block.busy = false ∧
    ((0x20100000#32).extractLsb' 28 4 = 2#4 ∧ (0x20100000#32).extractLsb' 8 20 ≠ 0#20) := by decide

/-- `CNT = LEN`, the largest `CNT`, and each `LEN` below 2. -/
theorem witness_PushOutsideTheFrameInvariant :
    ((openBlock 0 2 2 0).busy = true ∧ (openBlock 0 2 2 0).len.toNat ≤ (openBlock 0 2 2 0).cnt.toNat) ∧
    (openBlock 0 0xFFFF 0xFFFF 0).len.toNat ≤ (openBlock 0 0xFFFF 0xFFFF 0).cnt.toNat ∧
    (openBlock 0 0 0 0).len.toNat < 2 ∧ (openBlock 0 0 1 0).len.toNat < 2 := by decide

theorem witness_NopOnlyRespondsStatus :
    (0x00000001#32).extractLsb' 28 4 = 0#4 ∧ (0x00000001#32 : Word) ≠ 0#32 := by decide

/-- One word for each of the four kinds of R116. -/
theorem witness_IllegalWordRaisesIll :
    (offered Block.reset 0xB0000000#32).accepts 0xB0000000#32 [] ∧ 11 ≤ ((0xB0000000#32).extractLsb' 28 4).toNat ∧
    (0x10010001#32).extractLsb' 16 12 ≠ 0#12 ∧
    ((0x20000100#32).extractLsb' 28 4 = 2#4 ∧ (0x20000100#32).extractLsb' 8 8 ≠ 0#8) ∧
    ((0x60000001#32).extractLsb' 28 4 ≠ 1#4 ∧ (0x60000001#32).extractLsb' 28 4 ≠ 2#4 ∧
      (0x60000001#32).extractLsb' 0 16 ≠ 0#16) := by decide

/-- One word for each of the three errors. -/
theorem witness_ErrorsAreRecordedPrecisely :
    ((offered Block.reset 0xF0000000#32).accepts 0xF0000000#32 [] ∧ errorOf 0xF0000000#32 Block.reset = some .ill) ∧
    ((offered Block.reset 0x10000001#32).accepts 0x10000001#32 [] ∧ errorOf 0x10000001#32 Block.reset = some .len) ∧
    ((offered Block.reset 0x20000000#32).accepts 0x20000000#32 [] ∧ errorOf 0x20000000#32 Block.reset = some .ovr) := by
  decide

theorem witness_OneErrorByPriority :
    (offered (openBlock 0 0 4 0) 0x20000100#32).accepts 0x20000100#32 [] ∧ (openBlock 0 0 4 0).sameErrors Block.reset := by
  decide

theorem witness_ErrorsAccumulateAndBlockNothing :
    ((offered overrunBlock 0xC0000000#32).accepts 0xC0000000#32 [] ∧ errorOf 0xC0000000#32 overrunBlock = some .ill ∧
      overrunBlock.ecode ≠ 0#4) ∧
    ((offered Block.reset 0x10000004#32).accepts 0x10000004#32 [] ∧
      (offered overrunBlock 0x10000004#32).accepts 0x10000004#32 [] ∧ Block.reset.sameFrame overrunBlock) := by decide

theorem witness_ErrorFlagsAreSticky :
    ((offered overrunBlock 0x10000001#32).accepts 0x10000001#32 [] ∧ decode 0x10000001#32 ≠ .ok .clrerr) ∧
    ((offered overrunBlock 0x40000000#32).accepts 0x40000000#32 [] ∧ decode 0x40000000#32 = .ok .clrerr) ∧
    ((withBlock overrunBlock).present [.reset]).inputs = [.reset] :=
  ⟨⟨by decide, fun h => by cases h⟩, ⟨by decide, rfl⟩, rfl⟩

theorem witness_ErrorRecordStaysExplained : ∃ t,
    (State.reset.wasReset = true → errorRecordExplained State.reset.block) ∧
    step (State.reset.withFetchWord 32 0x20000055) = .next t ∧ t.wasReset = true :=
  ⟨_, fun _ => .inl ⟨rfl, rfl⟩, rfl, rfl⟩

/-- AC5: the sum 0x0046 against the field 0x0047. -/
theorem witness_MismatchIsNoError :
    (openBlock 0x46 3 4 0).busy = true ∧ (openBlock 0x46 3 4 0).cnt.toNat + 1 = (openBlock 0x46 3 4 0).len.toNat ∧
    (openBlock 0x46 3 4 0).acc ≠ (openBlock 0x46 3 4 0).chk.extractLsb' 8 8 ++ 0x47#8 := by decide

/-- A block of each phase that meets R34.1 to R34.3. -/
theorem witness_PhaseSaysWhatTheNextPushDoes :
    (Block.reset.FrameInv ∧ Block.reset.phase = .idle) ∧
    ((openBlock 0 0 3 0).FrameInv ∧ (openBlock 0 0 3 0).phase = .data) ∧
    ((openBlock 0 0 2 0).FrameInv ∧ (openBlock 0 0 2 0).phase = .chkHi) ∧
    ((openBlock 0 1 2 0).FrameInv ∧ (openBlock 0 1 2 0).phase = .chkLo) := by decide

theorem witness_OnlyListedWritersChangeAnElement :
    (offered (openBlock 5 1 4 0) 0x20000007#32).accepts 0x20000007#32 [] ∧ (openBlock 5 1 4 0).FrameInv := by decide

theorem witness_DoneIsTheCompletingPush :
    ((offered (openBlock 0 1 2 0) 0x20000000#32).accepts 0x20000000#32 [] ∧ (openBlock 0 1 2 0).FrameInv) ∧
    ((withBlock (openBlock 0 1 2 0)).present [.reset]).inputs = [.reset] := by decide

theorem witness_RepeatedCommands :
    (Instr.rdacc ≠ .clrerr ∧ leavesFrame .rdacc = true) ∧ 2 ≤ (2#16).toNat ∧
    ((openBlock 0 0 2 0).busy = true ∧ (openBlock 0 0 2 0).FrameInv) ∧ Block.reset.busy = false := by decide

theorem witness_InterleavedCommandsKeepTheFrame :
    (offered (openBlock 5 1 4 0) 0x40000000#32).accepts 0x40000000#32 [] ∧ decode 0x40000000#32 = .ok .clrerr ∧
    leavesFrame .clrerr = true :=
  ⟨by decide, rfl, rfl⟩

/-- The words that leave the phase: a refused `START 1`, and a `PUSH` with no frame open. -/
theorem witness_PhasesFollowTheFrame :
    2 ≤ (2#16).toNat ∧ ((openBlock 0 0 3 0).FrameInv ∧ (openBlock 0 0 3 0).busy = true) ∧
    ((openBlock 0 1 2 0).FrameInv ∧ (openBlock 0 1 2 0).busy = true ∧ (openBlock 0 1 2 0).phase = .chkLo) ∧
    ((withBlock (openBlock 0 1 2 0)).present [.reset]).inputs = [.reset] ∧
    ((offered (openBlock 0 1 2 0) 0x10000001#32).accepts 0x10000001#32 [] ∧ isPushWord 0x10000001#32 = false ∧
      decode 0x10000001#32 = .ok (.start 1#16)) ∧
    ((offered Block.reset 0x20000055#32).accepts 0x20000055#32 [] ∧ Block.reset.busy = false ∧
      decode 0x20000055#32 = .ok (.push 0x55#8)) :=
  ⟨by decide, by decide, by decide, rfl, ⟨by decide, rfl, rfl⟩, ⟨by decide, rfl, rfl⟩⟩

/-- The run of `n` pushes: a frame of two bytes with a read and a refused `START 1` between them. -/
theorem witness_PhasesFollowTheFrame_run :
    let words : List Word := [0x20000000#32, 0x60000000#32, 0x10000001#32, 0x20000001#32]
    (State.reset.present (.command 0x10000002#32 :: words.map Input.command)).inputs =
      .command (encode (.start 2#16)) :: (words.map Input.command ++ []) ∧
    (∀ w ∈ words, decode w ≠ .ok .abort ∧ ∀ m : Half, decode w = .ok (.start m) → m.toNat < 2) ∧
    words.countP isPushWord ≤ (2#16).toNat := by
  refine ⟨rfl, ?_, by decide⟩
  intro w hw
  simp only [List.mem_cons, List.not_mem_nil, or_false] at hw
  rcases hw with rfl | rfl | rfl | rfl <;> exact ⟨(fun h => by cases h), (fun m h => by cases h <;> decide)⟩

theorem witness_ResetEventFromAnyState :
    ((withBlock (openBlock 5 1 4 0)).present [.reset, .command 0#32]).inputs = .reset :: [.command 0#32] := by decide

theorem witness_ResetIsOrderedAgainstCommands :
    ((withBlock overrunBlock).present [.commandCutByReset 0x60000000#32]).inputs = [.commandCutByReset 0x60000000#32] ∧
    ((withBlock overrunBlock).present [.command 0x10000004#32, .reset]).accepts 0x10000004#32 [.reset] ∧
    ((withBlock overrunBlock).present [.reset, .command 0x10000004#32]).inputs = .reset :: [.command 0x10000004#32] := by
  decide

theorem witness_StepKeepsTheInvariants : ∃ t,
    State.Inv (State.reset.withFetchWord 32 0x10000004) ∧ step (State.reset.withFetchWord 32 0x10000004) = .next t :=
  ⟨_, by decide, rfl⟩

/-- The last byte of AC4's frame. -/
theorem witness_StepKeepsFrameContents : ∃ t,
    (offered (openBlock 0x46 3 4 0) 0x20000046#32).wasReset = true ∧
    (offered (openBlock 0x46 3 4 0) 0x20000046#32).inputs = [.command 0x20000046#32] ∧
    (openBlock 0x46 3 4 0).Inv ∧ (openBlock 0x46 3 4 0).Tracks [0x12#8, 0x34#8, 0x00#8] ∧
    step (offered (openBlock 0x46 3 4 0) 0x20000046#32) = .next t :=
  ⟨_, by decide, by decide, by decide, by decide, rfl⟩

/-- AC4's frame at the port, and the frame of no data bytes. -/
theorem witness_StreamingComputesValidate :
    (([0x12#8, 0x34#8] ++ [0x00#8, 0x46#8] : List Byte).length ≤ 65535 ∧
      (State.reset.present [.command 0x10000004#32, .command 0x20000012#32, .command 0x20000034#32,
        .command 0x20000000#32, .command 0x20000046#32]).inputs =
      .command (encode (.start (BitVec.ofNat 16 4))) ::
        (([0x12#8, 0x34#8] ++ [0x00#8, 0x46#8]).map (fun b => Input.command (encode (.push b))) ++ [])) ∧
    (State.reset.present [.command 0x10000002#32, .command 0x20000000#32, .command 0x20000001#32]).inputs =
      .command (encode (.start (BitVec.ofNat 16 2))) ::
        (([] ++ [0x00#8, 0x01#8]).map (fun b => Input.command (encode (.push b))) ++ []) := by decide

theorem witness_FrameckAlwaysMatches :
    ([] : List Byte).length + 2 ≤ 65535 ∧ (List.replicate 65533 (0#8 : Byte)).length + 2 ≤ 65535 ∧
    State.reset.wasReset = true ∧
    (State.reset.present [.command 0x10000002#32, .command 0x20000000#32, .command 0x20000000#32]).inputs =
      [0x10000002#32, 0x20000000#32, 0x20000000#32].map Input.command :=
  ⟨by decide, by rw [List.length_replicate], rfl, rfl⟩

theorem witness_ChecksumIgnoresOrder : [1#8, 2#8, 3#8].Perm [3#8, 1#8, 2#8] := by decide

/-- W5's way of corrupting a frame, on AC4's: the first byte, and the last. -/
theorem witness_SingleByteCorruptionIsDetected :
    validate [0x12#8, 0x34#8, 0x00#8, 0x46#8] = some true ∧
    (0 < 4 ∧ [0x12#8, 0x34#8, 0x00#8, 0x46#8][0]? ≠ some 0x13#8) ∧
    (3 < 4 ∧ [0x12#8, 0x34#8, 0x00#8, 0x46#8][3]? ≠ some 0x47#8) := by decide

theorem witness_SumBoundsOfTheProtocol :
    (List.replicate 257 (0xFF#8 : Byte)).length ≤ 257 ∧ (List.replicate 77 (0xFF#8 : Byte)).length = 77 ∧
    ((List.replicate 79 (0x4D#8 : Byte)).length = 79 ∧ 0x4C < ((List.replicate 79 (0x4D#8 : Byte)).getD 77 0).toNat) ∧
    [0xFF#8, 0xFF#8].length = 2 ∧
    ([0xFF#8, 0xFF#8, 0x02#8, 0x00#8].length = 4 ∧ 0x01 < ([0xFF#8, 0xFF#8, 0x02#8, 0x00#8].getD 2 0).toNat) := by
  refine ⟨?_, ?_, ⟨?_, by decide⟩, rfl, rfl, by decide⟩ <;> rw [List.length_replicate]

/-- W5, its sixth row: +1 on one byte and -1 on another. -/
theorem witness_UndetectedCorruptions :
    [0x3F#8, 0x80#8].length = [0x40#8, 0x7F#8].length ∧
    byteSum [0x3F#8, 0x80#8] % 65536 = byteSum [0x40#8, 0x7F#8] % 65536 ∧ [0x3F#8, 0x80#8].Perm [0x80#8, 0x3F#8] := by decide

/-- P5: a frame of 79 bytes that gets three and a read, and then nothing. -/
theorem witness_IncompleteFrameStaysOpen :
    let words : List Word := [0x20000001#32, 0x20000000#32, 0x20000000#32, 0x60000000#32]
    let s := (withBlock (openBlock 0 0 79 0)).present (words.map Input.command)
    s.wasReset = true ∧ s.block.FrameInv ∧ s.block.busy = true ∧ s.inputs = words.map Input.command ∧
    (∀ w ∈ words, decode w ≠ .ok .abort ∧ ∀ n, decode w ≠ .ok (.start n)) ∧
    s.block.cnt.toNat + words.countP isPushWord < s.block.len.toNat := by
  refine ⟨rfl, by decide, rfl, rfl, ?_, by decide⟩
  intro w hw
  simp only [List.mem_cons, List.not_mem_nil, or_false] at hw
  rcases hw with rfl | rfl | rfl | rfl <;> exact ⟨(fun h => by cases h), (fun n h => by cases h)⟩

theorem witness_FiniteSequenceEnds :
    (State.reset.present [.command 0#32, .reset, .commandCutByReset 0#32]).wasReset = true ∧
    countCommands [.command 0#32, .reset, .commandCutByReset 0#32] = (1, 1) := by decide

theorem witness_AssemblerEncodesOrRefuses :
    (⟨.nop, 0x00000000#32, 0xFFFFFFFF#32⟩ : OpcodeRow) ∈ opcodeTable ∧ Mnemonic.nop ≠ .start ∧ Mnemonic.nop ≠ .push := by
  decide

/-- A mnemonic alone; and a first part before a space, before a tab, before a comment, and with nothing after it. -/
theorem witness_SourceTextCommentsAndCase :
    ';' ∉ ['N', 'O', 'P'] ∧ ['n', 'O', 'p'].map capital = mnemonicText .nop ∧
    (∀ c ∈ [' ', '\t'], c = ' ' ∨ c = '\t') ∧ ['N', 'O', 'P'].map capital = ['n', 'o', 'P'].map capital ∧
    (∀ c ∈ ['N', 'O', 'P'] ++ ['n', 'o', 'P'], c ≠ ' ' ∧ c ≠ '\t' ∧ c ≠ ';') ∧
    (∀ rest ∈ [[' ', '1'], ['\t', '1'], [';'], []], ∀ c ∈ rest.head?, c = ' ' ∨ c = '\t' ∨ c = ';') :=
  ⟨by decide, by decide, by simp, by decide, by simp, by simp⟩

/-- R62, a line of the mnemonic alone in small letters, and one with a tab before its operand. -/
theorem test_assemble_case :
    assembleText ['r', 'd', 'a', 'c', 'c'] = some [0x60000000#32] ∧
    assembleText ['p', 'u', 's', 'h', '\t', '7'] = some [0x20000007#32] := by decide

theorem witness_PseudoInstructionsExpand :
    (2 ≤ [0x00#8, 0x01#8].length ∧ [0x00#8, 0x01#8].length ≤ 65535) ∧ ([0] : List Nat).length < 2 := by decide

theorem witness_DisassembledTextAssemblesToTheWord : decode 0xFFFFFFFF#32 = .error .reservedField := rfl

end Sys2Proof.Tests
end

section
/-! SUPPORT. The function `step(S, w)` of 00_scope.md R11 written on the block alone: the block after a command or a word,
and the one response. `exec_eq`, `acceptWord_eq` and `step_accepts_eq` tie it to the model. -/

namespace Sys2Proof.Machine

/-- The block after a command. -/
def Block.afterInstr (b : Block) : Instr → Block
  | .start len => if lengthLegal len then b.openFrame len else b.recordError .len (encode (.start len))
  | .push byte => if b.busy then b.takeByte byte else b.recordError .ovr (encode (.push byte))
  | .abort => b.abandonFrame
  | .clrerr => b.clearErrors
  | .nop | .rdstat | .rdacc | .rdchk | .rdcnt | .rdlen | .rderrw => b

/-- The response to a command (42_readback.md R100): the value a read names, or the STATUS word after the effect. -/
def Block.responseToInstr (b : Block) : Instr → Word
  | .rdacc => b.acc.setWidth 32
  | .rdchk => b.chk.setWidth 32
  | .rdcnt => b.cnt.setWidth 32
  | .rdlen => b.len.setWidth 32
  | .rderrw => b.errw
  | i => (b.afterInstr i).status

/-- The block after an accepted word: an illegal one only records its error (60_exceptions.md R116). -/
def Block.afterWord (b : Block) (w : Word) : Block :=
  match decode w with
  | .ok i => b.afterInstr i
  | .error _ => b.recordError .ill w

/-- The response to an accepted word. -/
def Block.responseToWord (b : Block) (w : Word) : Word :=
  match decode w with
  | .ok i => b.responseToInstr i
  | .error _ => (b.recordError .ill w).status

theorem exec_eq (i : Instr) (s : State) :
    exec i s = .next { s with
      block := s.block.afterInstr i
      responses := s.responses ++ [s.block.responseToInstr i] } := by
  cases i with
  | start len =>
    cases h : lengthLegal len <;>
      simp [exec, execStart, raiseError, State.effect, Block.afterInstr, Block.responseToInstr, h]
  | push byte =>
    cases h : s.block.busy <;>
      simp [exec, execPush, raiseError, State.effect, Block.afterInstr, Block.responseToInstr, h]
  | nop | abort | clrerr | rdstat | rdacc | rdchk | rdcnt | rdlen | rderrw => rfl

theorem acceptWord_eq (w : Word) (s : State) :
    acceptWord w s = .next { s with
      block := s.block.afterWord w
      responses := s.responses ++ [s.block.responseToWord w] } := by
  cases h : decode w with
  | ok i => simp [acceptWord_ok h, exec_eq, Block.afterWord, Block.responseToWord, h]
  | error why => simp [acceptWord_error h, raiseError, State.effect, Block.afterWord, Block.responseToWord, h]

/-- A step that takes a command word, in full: the word leaves the port, and the block and the word alone give the block
after it and its response. -/
theorem step_accepts_eq {s : State} {w : Word} {rest : List Input} (h : s.accepts w rest) :
    step s = .next { s with
      inputs := rest
      block := s.block.afterWord w
      responses := s.responses ++ [s.block.responseToWord w] } := by
  rw [step_command h, acceptWord_eq]

end Sys2Proof.Machine
end

section
/-! PROOFS. The statement of 00_scope.md R11. -/

namespace Sys2Proof.Machine

/-- Settles O9: both machines step by the same function of block and word (`step_accepts_eq`). -/
theorem outcomeDependsOnBlockAndWordAlone : Obligations.OutcomeDependsOnBlockAndWordAlone := by
  refine ⟨?word, ?reset, fun s h => step_idle h⟩
  case word =>
    intro s₁ s₂ w rest₁ rest₂ h₁ h₂ hb
    exact ⟨_, _, s₁.block.responseToWord w, step_accepts_eq h₁, step_accepts_eq h₂,
      congrArg (·.afterWord w) hb, rfl, by rw [hb]⟩
  case reset =>
    intro s rest h
    exact ⟨_, step_reset h, rfl⟩

end Sys2Proof.Machine
end

section
/-! SUPPORT. What a word, and an input, can do to the block: the cases of `Block.afterWord`, the errors a word raises
(60_exceptions.md R115 to R118), the place of a byte by the phase (10_state.md R32), and the run of presented inputs as
a fold over the block. -/

namespace Sys2Proof

/-- A legal command has one word (30_encoding.md R56), so the word of a decoded command is the one it was decoded from. -/
theorem encode_of_decode {w : Word} {i : Instr} (h : decode w = .ok i) : encode i = w := by
  obtain ⟨hw, hd⟩ := decode_ok_fields h
  rw [hw]
  obtain ⟨hop, rfl⟩ | ⟨hop, hhigh, rfl⟩ | ⟨himm, hrest⟩ := decodeOp_ok_cases hd
  · rw [hop, encode]
  · rw [hop, encode, zero_append_immByte _ hhigh]
  · rw [himm]
    rcases hrest with ⟨hop, rfl⟩ | ⟨hop, rfl⟩ | ⟨hop, rfl⟩ | ⟨hop, rfl⟩ | ⟨hop, rfl⟩ | ⟨hop, rfl⟩ | ⟨hop, rfl⟩ |
      ⟨hop, rfl⟩ | ⟨hop, rfl⟩ <;> rw [hop, encode]

end Sys2Proof

namespace Sys2Proof.Machine

theorem Block.afterWord_ok {w : Word} {i : Instr} (h : decode w = .ok i) (b : Block) : b.afterWord w = b.afterInstr i := by
  simp [Block.afterWord, h]

theorem Block.afterWord_error {w : Word} {why : Illegal} (h : decode w = .error why) (b : Block) :
    b.afterWord w = b.recordError .ill w := by
  simp [Block.afterWord, h]

/-- Everything an accepted word can do to the block (10_state.md R33): a legal `START`, a `PUSH` into an open frame,
`ABORT`, `CLRERR`, a word that raises an error, and a command that writes nothing. -/
theorem Block.afterWord_cases (b : Block) (w : Word) :
    (∃ n, decode w = .ok (.start n) ∧ 2 ≤ n.toNat ∧ b.afterWord w = b.openFrame n) ∨
    (∃ v, decode w = .ok (.push v) ∧ b.busy = true ∧ b.afterWord w = b.takeByte v) ∨
    (decode w = .ok .abort ∧ b.afterWord w = b.abandonFrame) ∨
    (decode w = .ok .clrerr ∧ b.afterWord w = b.clearErrors) ∨
    (∃ c, errorOf w b = some c ∧ b.afterWord w = b.recordError c w) ∨
    (∃ i, decode w = .ok i ∧ leavesFrame i = true ∧ i ≠ .clrerr ∧ b.afterWord w = b) := by
  cases hd : decode w with
  | error why => simp [errorOf, hd, Block.afterWord_error hd]
  | ok i =>
    have he := encode_of_decode hd
    rw [Block.afterWord_ok hd]
    cases i with
    | start n =>
      by_cases hn : 2 ≤ n.toNat <;> simp [errorOf, hd, Block.afterInstr, leavesFrame, lengthLegal, hn, he]
    | push v => cases hb : b.busy <;> simp [errorOf, hd, Block.afterInstr, leavesFrame, hb, he]
    | abort | clrerr | nop | rdstat | rdacc | rdchk | rdcnt | rdlen | rderrw =>
      simp [errorOf, hd, Block.afterInstr, leavesFrame]

/-! ### The errors a word raises -/

theorem errorOf_eq_ill {w : Word} {b : Block} : errorOf w b = some .ill ↔ ∃ why, decode w = .error why := by
  cases hd : decode w with
  | error why => simp [errorOf, hd]
  | ok i => cases i <;> simp [errorOf, hd]

theorem errorOf_eq_len {w : Word} {b : Block} :
    errorOf w b = some .len ↔ ∃ n : Half, n.toNat < 2 ∧ decode w = .ok (.start n) := by
  cases hd : decode w with
  | error why => simp [errorOf, hd]
  | ok i => cases i <;> simp [errorOf, hd, lengthLegal]

theorem errorOf_eq_ovr {w : Word} {b : Block} :
    errorOf w b = some .ovr ↔ b.busy = false ∧ ∃ byte, decode w = .ok (.push byte) := by
  cases hd : decode w with
  | error why => simp [errorOf, hd]
  | ok i => cases i <;> simp [errorOf, hd]

/-- A word but `CLRERR` either records the error it raises or leaves the error state (60_exceptions.md R121, R126). -/
theorem Block.afterWord_errors (b : Block) {w : Word} (hw : decode w ≠ .ok .clrerr) :
    (∃ c, errorOf w b = some c ∧ b.afterWord w = b.recordError c w) ∨
    (errorOf w b = none ∧ (b.afterWord w).sameErrors b) := by
  obtain ⟨n, hd, hn, hb⟩ | ⟨v, hd, hbusy, hb⟩ | ⟨hd, hb⟩ | ⟨hd, -⟩ | hrec | ⟨i, hd, hi, -, hb⟩ := b.afterWord_cases w
  · exact .inr ⟨by simp [errorOf, hd, lengthLegal, hn], by simp [Block.sameErrors, hb]⟩
  · exact .inr ⟨by simp [errorOf, hd, hbusy], hb ▸ b.takeByte_sameErrors v⟩
  · exact .inr ⟨by simp [errorOf, hd], by simp [Block.sameErrors, hb]⟩
  · exact absurd hd hw
  · exact .inl hrec
  · exact .inr ⟨by cases i <;> simp_all [errorOf, leavesFrame], by simp [Block.sameErrors, hb]⟩

/-- The flags after a word but `CLRERR`: each is set by its own cause, and none is cleared (10_state.md R28). -/
theorem Block.afterWord_flags (b : Block) {w : Word} (hw : decode w ≠ .ok .clrerr) :
    ((b.afterWord w).errIll = true ↔ b.errIll = true ∨ errorOf w b = some .ill) ∧
    ((b.afterWord w).errLen = true ↔ b.errLen = true ∨ errorOf w b = some .len) ∧
    ((b.afterWord w).errOvr = true ↔ b.errOvr = true ∨ errorOf w b = some .ovr) := by
  obtain ⟨c, he, hb⟩ | ⟨he, hill, hlen, hovr, -⟩ := b.afterWord_errors hw
  · simp [he, hb, Block.recordError_eq]
  · simp [he, hill, hlen, hovr]

/-- The place of a byte in an open frame, by the phase, by `CNT` and `LEN`, and by what `PUSH` does with it. -/
theorem Block.takeByte_of_phase {b : Block} (hb : b.busy = true) (hc : b.cnt.toNat < b.len.toNat) (v : Byte) :
    (b.phase = .data ∧ b.cnt.toNat + 2 < b.len.toNat ∧ b.takeByte v = b.takeData v) ∨
    (b.phase = .chkHi ∧ b.cnt.toNat + 2 = b.len.toNat ∧ b.takeByte v = b.takeHigh v) ∨
    (b.phase = .chkLo ∧ b.cnt.toNat + 1 = b.len.toNat ∧ b.takeByte v = b.takeLow v) := by
  unfold Block.takeByte nextIsData nextIsHigh
  obtain ⟨h, hp⟩ | ⟨h, hp⟩ | ⟨h, hp⟩ := Block.phase_of_busy hb hc
  · exact .inl ⟨hp, h, by simp [h]⟩
  · exact .inr (.inl ⟨hp, h, by simp [h]⟩)
  · exact .inr (.inr ⟨hp, h, by simp [← h]⟩)

theorem Block.FrameInv.cnt_lt_len {b : Block} (h : b.FrameInv) (hb : b.busy = true) : b.cnt.toNat < b.len.toNat :=
  (h.1 hb).2

theorem Block.FrameInv.done_eq_false {b : Block} (h : b.FrameInv) (hb : b.busy = true) : b.done = false := by
  obtain ⟨-, -, hnot⟩ := h
  simpa [hb] using hnot

/-- An open frame takes the byte of a `PUSH`. -/
theorem exec_push_of_busy {s : State} (hb : s.block.busy = true) (v : Byte) :
    ∃ t, exec (.push v) s = .next t ∧ t.block = s.block.takeByte v :=
  ⟨_, exec_eq _ _, by simp [Block.afterInstr, hb]⟩

/-! ### The inputs -/

/-- The block after an input, once the machine was reset. -/
def Block.afterInput (b : Block) : Input → Block
  | .command w => b.afterWord w
  | .reset | .commandCutByReset _ => Block.reset

theorem step_input {s : State} {e : Input} {rest : List Input} (hr : s.wasReset = true) (hi : s.inputs = e :: rest) :
    ∃ t, step s = .next t ∧ t.wasReset = true ∧ t.inputs = rest ∧ t.block = s.block.afterInput e := by
  cases e with
  | command w => exact ⟨_, step_accepts_eq ⟨hr, hi⟩, hr, rfl, rfl⟩
  | reset => exact ⟨_, step_reset hi, rfl, rfl, rfl⟩
  | commandCutByReset w => exact ⟨_, step_cut hi, rfl, rfl, rfl⟩

theorem run_idle {s : State} (hi : s.inputs = []) (n : Nat) : run n s = .next s := by
  induction n with
  | zero => rfl
  | succ n ih => rw [run_succ (step_idle hi), ih]

/-- `n` steps after a reset take the first `n` inputs, fewer when fewer are presented, one after the other. -/
theorem run_inputs (n : Nat) {s : State} (hr : s.wasReset = true) :
    ∃ t, run n s = .next t ∧ t.wasReset = true ∧ t.inputs = s.inputs.drop n ∧
      t.block = (s.inputs.take n).foldl Block.afterInput s.block := by
  induction n generalizing s with
  | zero => exact ⟨s, rfl, hr, rfl, rfl⟩
  | succ n ih =>
    cases hi : s.inputs with
    | nil => exact ⟨s, run_idle hi _, hr, hi, rfl⟩
    | cons e rest =>
      obtain ⟨u, hstep, hur, hui, hub⟩ := step_input hr hi
      obtain ⟨t, hrun, htr, hti, htb⟩ := ih hur
      exact ⟨t, (run_succ hstep n).trans hrun, htr, by simp [hti, hui], by simp [htb, hui, hub]⟩

end Sys2Proof.Machine
end

section
/-! SUPPORT. The invariants of 10_state.md R34, operation by operation: each of R34.1 to R34.5, and the bytes of R34.6. -/

namespace Sys2Proof.Machine

theorem Block.reset_inv : Block.reset.Inv := by decide

theorem Block.reset_tracks (f : List Byte) : Block.reset.Tracks f := by simp [Block.Tracks]

/-- R34.1 to R34.4 are about the frame, R34.5 about the error state. -/
theorem Block.Inv.of_sameFrame {a b : Block} (h : b.Inv) (hf : a.sameFrame b) (he : a.ErrorInv) : a.Inv := by
  obtain ⟨hframe, hmatch, -⟩ := h
  obtain ⟨hacc, hcnt, hlen, hchk, hbusy, hdone, hmatched⟩ := hf
  refine ⟨?_, ?_, he⟩
  · simpa only [Block.FrameInv, hcnt, hlen, hbusy, hdone] using hframe
  · simpa only [Block.MatchInv, hacc, hchk, hdone, hmatched] using hmatch

theorem Block.ErrorInv.of_sameErrors {a b : Block} (h : b.ErrorInv) (hs : a.sameErrors b) : a.ErrorInv := by
  obtain ⟨hill, hlen, hovr, hecode, herrw⟩ := hs
  simpa only [Block.ErrorInv, Block.flagOfCode, hill, hlen, hovr, hecode, herrw] using h

/-- With no result, R34.1 to R34.4 ask for a legal length and room in the frame, and no `MATCH`. -/
theorem Block.Inv.of_room {b : Block} (hlen : 2 ≤ b.len.toNat) (hc : b.cnt.toNat < b.len.toNat)
    (hdone : b.done = false) (hmatched : b.matched = false) (he : b.ErrorInv) : b.Inv :=
  ⟨⟨fun _ => ⟨hlen, hc⟩, by simp [hdone], by simp [hdone]⟩, by simp [Block.MatchInv, hdone, hmatched], he⟩

theorem Block.openFrame_inv {b : Block} (h : b.ErrorInv) {n : Half} (hn : 2 ≤ n.toNat) : (b.openFrame n).Inv :=
  .of_room hn (Nat.zero_lt_two.trans_le hn) rfl rfl (h.of_sameErrors (by simp [Block.sameErrors]))

theorem Block.abandonFrame_inv {b : Block} (h : b.ErrorInv) : b.abandonFrame.Inv :=
  ⟨by simp [Block.FrameInv], by simp [Block.MatchInv], h.of_sameErrors (by simp [Block.sameErrors])⟩

theorem Block.clearErrors_inv {b : Block} (h : b.Inv) : b.clearErrors.Inv :=
  h.of_sameFrame b.clearErrors_sameFrame (by simp [Block.ErrorInv])

theorem Block.ErrorInv.of_flag {b : Block} (h0 : b.ecode ≠ 0) (hf : b.flagOfCode b.ecode = true) : b.ErrorInv := by
  refine ⟨⟨fun h => absurd h h0, fun hnone => ?_⟩, fun h => absurd h h0, fun _ => hf⟩
  simp [Block.flagOfCode, hnone] at hf

/-- A second error sets one flag more, and clears none. -/
theorem Block.flagOfCode_recordError {b : Block} {code : BitVec 4} (h : b.flagOfCode code = true) (c : ErrorCause)
    (w : Word) : (b.recordError c w).flagOfCode code = true := by
  unfold Block.flagOfCode at h ⊢
  split_ifs at h ⊢ <;> simp [Block.recordError_eq, h]

/-- The first error brings its code with its flag; a later one leaves the code, whose flag stays. -/
theorem Block.recordError_errorInv {b : Block} (h : b.ErrorInv) (c : ErrorCause) (w : Word) :
    (b.recordError c w).ErrorInv := by
  have ⟨_, _, hset⟩ := h
  by_cases h0 : b.ecode = 0#4
  · cases c <;> exact .of_flag (by simp [Block.recordError_eq, h0, errorCode])
      (by simp [Block.recordError_eq, h0, errorCode, Block.flagOfCode])
  · have hcode : (b.recordError c w).ecode = b.ecode := by simp [Block.recordError_eq, h0]
    exact .of_flag (hcode ▸ h0) (hcode ▸ Block.flagOfCode_recordError (hset h0) c w)

theorem Block.recordError_inv {b : Block} (h : b.Inv) (c : ErrorCause) (w : Word) : (b.recordError c w).Inv :=
  have ⟨_, _, herr⟩ := h
  h.of_sameFrame (b.recordError_sameFrame c w) (Block.recordError_errorInv herr c w)

/-- While a frame is open, `CNT` has room for one more byte. -/
theorem Block.cnt_succ_toNat {b : Block} (hc : b.cnt.toNat < b.len.toNat) : (b.cnt + 1).toNat = b.cnt.toNat + 1 := by
  have hlen := b.len.isLt
  have hone : (1 : Half).toNat = 1 := rfl
  rw [BitVec.toNat_add, hone, Nat.mod_eq_of_lt (by omega)]

theorem Block.takeByte_inv {b : Block} (h : b.Inv) (hb : b.busy = true) (v : Byte) : (b.takeByte v).Inv := by
  obtain ⟨hframe, hmatch, herr⟩ := h
  obtain ⟨hlen, hc⟩ := hframe.1 hb
  have hdone := hframe.done_eq_false hb
  have hcnt := Block.cnt_succ_toNat hc
  have herr' := herr.of_sameErrors (b.takeByte_sameErrors v)
  obtain ⟨-, hpos, ht⟩ | ⟨-, hpos, ht⟩ | ⟨-, hpos, ht⟩ := Block.takeByte_of_phase hb hc v <;> rw [ht] at herr' ⊢
  · exact .of_room hlen (by rw [Block.takeData_cnt, hcnt, Block.takeData_len]; omega) hdone (hmatch.2 hdone) herr'
  · exact .of_room hlen (by rw [Block.takeHigh_cnt, hcnt, Block.takeHigh_len]; omega) hdone (hmatch.2 hdone) herr'
  · have hfull : b.cnt + 1 = b.len := BitVec.eq_of_toNat_eq (hcnt.trans hpos)
    exact ⟨⟨by simp, fun _ => ⟨rfl, hlen, hfull⟩, by simp⟩, ⟨fun _ => beq_eq_decide _ _, by simp⟩, herr'⟩

theorem Block.afterWord_inv {b : Block} (h : b.Inv) (w : Word) : (b.afterWord w).Inv := by
  have ⟨_, _, herr⟩ := h
  obtain ⟨n, -, hn, hb⟩ | ⟨v, -, hbusy, hb⟩ | ⟨-, hb⟩ | ⟨-, hb⟩ | ⟨c, -, hb⟩ | ⟨i, -, -, -, hb⟩ := b.afterWord_cases w <;>
    rw [hb]
  · exact Block.openFrame_inv herr hn
  · exact Block.takeByte_inv h hbusy v
  · exact Block.abandonFrame_inv herr
  · exact Block.clearErrors_inv h
  · exact Block.recordError_inv h c w
  · exact h

theorem Block.afterInput_inv {b : Block} (h : b.Inv) (e : Input) : (b.afterInput e).Inv := by
  cases e with
  | command w => exact Block.afterWord_inv h w
  | reset | commandCutByReset _ => exact Block.reset_inv

/-! ### The bytes of R34.6 -/

theorem byteSum_append (bs cs : List Byte) : byteSum (bs ++ cs) = byteSum bs + byteSum cs := by simp [byteSum]

/-- The checksum of one byte more is one step of the accumulator (41_accumulate.md R88). -/
theorem cs16_append_singleton (bs : List Byte) (v : Byte) : cs16 (bs ++ [v]) = addByte (cs16 bs) v := by
  have hv : byteSum [v] = v.toNat := by simp [byteSum]
  refine BitVec.eq_of_toNat_eq ?_
  simp only [cs16, addByte, byteSum_append, hv, BitVec.toNat_add, BitVec.toNat_ofNat, BitVec.toNat_setWidth]
  omega

theorem Block.Tracks.of_sameFrame {a b : Block} {f : List Byte} (h : b.Tracks f) (hs : a.sameFrame b) : a.Tracks f := by
  obtain ⟨hacc, hcnt, hlen, hchk, hbusy, -, -⟩ := hs
  simpa only [Block.Tracks, hacc, hcnt, hlen, hchk, hbusy] using h

/-- R34.6 reads the first `CNT` bytes only, so with no frame open more bytes change nothing. -/
theorem Block.Tracks.append_of_idle {b : Block} {f : List Byte} (h : b.Tracks f) (hb : b.busy = false)
    (g : List Byte) : b.Tracks (f ++ g) := by
  intro hlen
  obtain ⟨hle, -, hacc, hhigh, hlow⟩ := h hlen
  refine ⟨by simp; omega, by simp [hb], ?acc, ?high, ?low⟩
  case acc => rwa [List.take_append_of_le_length (by omega)]
  case high =>
    rw [hhigh]
    split_ifs with hc
    · rw [List.getD_append _ _ _ _ (by omega)]
    · rfl
  case low =>
    rw [hlow]
    split_ifs with hc
    · rw [List.getD_append _ _ _ _ (by rw [hc] at hle; omega)]
    · rfl

theorem Block.openFrame_tracks (b : Block) {n : Half} (hn : 2 ≤ n.toNat) : (b.openFrame n).Tracks [] := by
  have hne : 0#16 ≠ n := fun h => by simp [← h] at hn
  simp [Block.Tracks, cs16, byteSum, hne]

theorem Block.abandonFrame_tracks {b : Block} {f : List Byte} (h : b.Tracks f) : b.abandonFrame.Tracks f :=
  fun hlen =>
    have ⟨hle, _, hcontents⟩ := h hlen
    ⟨hle, by simp, hcontents⟩

/-- The byte a `PUSH` adds goes where `CNT` points: into the sum, or into one half of the field. -/
theorem Block.takeByte_tracks {b : Block} {f : List Byte} (hinv : b.FrameInv) (h : b.Tracks f) (hb : b.busy = true)
    (v : Byte) : (b.takeByte v).Tracks (f ++ [v]) := by
  obtain ⟨hlen, hc⟩ := hinv.1 hb
  obtain ⟨-, hopen, hacc, hhigh, hlow⟩ := h hlen
  have hf := hopen hb
  have hcnt : (b.cnt + 1).toNat = f.length + 1 := by rw [hf, Block.cnt_succ_toNat hc]
  have hfull : b.cnt + 1 = b.len ↔ f.length + 1 = b.len.toNat := by rw [← BitVec.toNat_inj, hcnt]
  have hne : b.cnt ≠ b.len := fun he => by
    rw [he] at hc
    omega
  rw [if_neg hne] at hlow
  rw [← hf] at hacc hhigh
  intro _
  simp only [Block.takeByte_cnt, Block.takeByte_len, hfull, hcnt]
  refine ⟨by simp, by simp, ?_⟩
  obtain ⟨-, hpos, ht⟩ | ⟨-, hpos, ht⟩ | ⟨-, hpos, ht⟩ := Block.takeByte_of_phase hb hc v <;> rw [ht]
  · have hall : min (f.length + 1) (b.len.toNat - 2) = (f ++ [v]).length := by simp; omega
    rw [min_eq_left (by omega), List.take_length] at hacc
    rw [if_neg (by omega)] at hhigh
    rw [hall, List.take_length, cs16_append_singleton, ← hacc, if_neg (by omega), if_neg (by omega)]
    exact ⟨rfl, hhigh, hlow⟩
  · have hlast : b.len.toNat - 2 = f.length := by omega
    rw [hlast, min_self, List.take_length] at hacc
    rw [hlast, min_eq_right (by omega), List.take_left, ← hacc, if_pos (by omega), if_neg (by omega)]
    exact ⟨rfl, by simp, by simp [hlow]⟩
  · have hlast : b.len.toNat - 1 = f.length := by omega
    rw [min_eq_right (by omega)] at hacc
    rw [if_pos (by omega)] at hhigh
    rw [min_eq_right (by omega), List.take_append_of_le_length (by omega), ← hacc, if_pos (by omega), if_pos (by omega),
      List.getD_append _ _ _ _ (by omega), hlast]
    exact ⟨rfl, by simp [hhigh], by simp⟩

/-- Of the words that raise an error only a `PUSH` with no frame open adds a byte to those of R34.6. -/
theorem bytesAfter_of_error {w : Word} {b : Block} {c : ErrorCause} (he : errorOf w b = some c) (f : List Byte) :
    bytesAfter f (.command w) = f ∨ (b.busy = false ∧ ∃ v, bytesAfter f (.command w) = f ++ [v]) := by
  cases c with
  | ill =>
    obtain ⟨why, hd⟩ := errorOf_eq_ill.mp he
    exact .inl (by simp [bytesAfter, hd])
  | len =>
    obtain ⟨n, hn, hd⟩ := errorOf_eq_len.mp he
    exact .inl (by simp [bytesAfter, hd, lengthLegal, hn])
  | ovr =>
    obtain ⟨hb, v, hd⟩ := errorOf_eq_ovr.mp he
    exact .inr ⟨hb, v, by simp [bytesAfter, hd]⟩

theorem Block.afterWord_tracks {b : Block} {f : List Byte} (hinv : b.Inv) (h : b.Tracks f) (w : Word) :
    (b.afterWord w).Tracks (bytesAfter f (.command w)) := by
  obtain ⟨n, hd, hn, hb⟩ | ⟨v, hd, hbusy, hb⟩ | ⟨hd, hb⟩ | ⟨hd, hb⟩ | ⟨c, he, hb⟩ | ⟨i, hd, hi, -, hb⟩ :=
    b.afterWord_cases w <;> rw [hb]
  · have hf : bytesAfter f (.command w) = [] := by simp [bytesAfter, hd, lengthLegal, hn]
    rw [hf]
    exact b.openFrame_tracks hn
  · have hf : bytesAfter f (.command w) = f ++ [v] := by simp [bytesAfter, hd]
    rw [hf]
    exact Block.takeByte_tracks hinv.1 h hbusy v
  · have hf : bytesAfter f (.command w) = f := by simp [bytesAfter, hd]
    rw [hf]
    exact Block.abandonFrame_tracks h
  · have hf : bytesAfter f (.command w) = f := by simp [bytesAfter, hd]
    rw [hf]
    exact h.of_sameFrame b.clearErrors_sameFrame
  · have hs := b.recordError_sameFrame c w
    obtain hf | ⟨hbusy, v, hf⟩ := bytesAfter_of_error he f
    · rw [hf]
      exact h.of_sameFrame hs
    · rw [hf]
      exact (h.append_of_idle hbusy [v]).of_sameFrame hs
  · have hf : bytesAfter f (.command w) = f := by cases i <;> simp_all [bytesAfter, leavesFrame]
    rw [hf]
    exact h

theorem Block.afterInput_tracks {b : Block} {f : List Byte} (hinv : b.Inv) (h : b.Tracks f) (e : Input) :
    (b.afterInput e).Tracks (bytesAfter f e) := by
  cases e with
  | command w => exact Block.afterWord_tracks hinv h w
  | reset | commandCutByReset _ => exact Block.reset_tracks _

/-- The induction of R34: the block and the bytes, after any inputs. -/
theorem Block.afterInputs_inv_tracks (es : List Input) {b : Block} {f : List Byte} (hinv : b.Inv) (h : b.Tracks f) :
    (es.foldl Block.afterInput b).Inv ∧ (es.foldl Block.afterInput b).Tracks (es.foldl bytesAfter f) := by
  induction es generalizing b f with
  | nil => exact ⟨hinv, h⟩
  | cons e es ih => exact ih (Block.afterInput_inv hinv e) (Block.afterInput_tracks hinv h e)

end Sys2Proof.Machine
end

section
/-! PROOFS. The statements of 10_state.md: the elements, their views, their writers and their invariants. -/

namespace Sys2Proof.Machine

/-- Settles O40: the run is a fold of the inputs over the block (`run_inputs`), and every input keeps the invariants. -/
theorem reachableStatesMeetTheInvariants : Obligations.ReachableStatesMeetTheInvariants := by
  intro inputs n
  obtain ⟨t, hrun, -, -, hb⟩ := run_inputs n (s := State.reset.present inputs) rfl
  obtain ⟨⟨hframe, hmatch, herr⟩, htracks⟩ :=
    Block.afterInputs_inv_tracks (inputs.take n) Block.reset_inv (Block.reset_tracks [])
  exact ⟨t, hrun, hb ▸ hframe, hb ▸ hmatch, hb ▸ herr, hb ▸ htracks⟩

/-- Settles O22: after a word each flag is the one before or the word's own cause (`Block.afterWord_flags`). -/
theorem errorFlagsAreSticky : Obligations.ErrorFlagsAreSticky := by
  refine ⟨?other, ?clrerr, ?reset⟩
  case other =>
    intro s w rest h hw
    obtain ⟨hill, hlen, hovr⟩ := s.block.afterWord_flags hw
    exact ⟨_, step_accepts_eq h, hill.trans (or_congr_right errorOf_eq_ill), hlen.trans (or_congr_right errorOf_eq_len),
      hovr.trans (or_congr_right errorOf_eq_ovr)⟩
  case clrerr =>
    intro s w rest h hw
    exact ⟨_, step_accepts_eq h, by simp [Block.afterWord_ok hw, Block.afterInstr]⟩
  case reset =>
    intro s rest h
    exact ⟨_, step_reset h, rfl, rfl, rfl⟩

/-- Settles O26: with no frame open the phase is idle; with one open, `Block.takeByte_of_phase` says all. -/
theorem phaseSaysWhatTheNextPushDoes : Obligations.PhaseSaysWhatTheNextPushDoes := by
  intro s byte hinv
  cases hb : s.block.busy with
  | false => simp [Block.phase_of_idle hb, phaseCode]
  | true =>
    obtain ⟨t, hstep, ht⟩ := exec_push_of_busy hb byte
    obtain ⟨hp, hpos, hbyte⟩ | ⟨hp, hpos, hbyte⟩ | ⟨hp, hpos, hbyte⟩ :=
      Block.takeByte_of_phase hb (hinv.cnt_lt_len hb) byte
    all_goals
      rw [hbyte] at ht
      simp [hp, hstep, phaseCode, ht, addByte]
      omega

/-- Settles O28: `Block.takeByte_of_phase` tells the byte that completes the frame from the others. -/
theorem doneIsTheCompletingPush : Obligations.DoneIsTheCompletingPush := by
  refine ⟨fun s w rest h hinv => ⟨_, step_accepts_eq h, ?_⟩, fun s rest h => ⟨_, step_reset h, rfl⟩⟩
  show (s.block.afterWord w).done = _
  cases hd : decode w with
  | error why => simp [Block.afterWord_error hd, Block.recordError_eq]
  | ok i =>
    rw [Block.afterWord_ok hd]
    cases i with
    | start n =>
      have hshort : decide (n.toNat < 2) = !lengthLegal n := by simp [lengthLegal, ← decide_not]
      simp only [hshort]
      cases hn : lengthLegal n <;> simp [Block.afterInstr, hn, Block.recordError_eq]
    | push v =>
      cases hb : s.block.busy with
      | false => simp [Block.afterInstr, hb, Block.recordError_eq]
      | true =>
        obtain ⟨-, hpos, hv⟩ | ⟨-, hpos, hv⟩ | ⟨-, hpos, hv⟩ :=
          Block.takeByte_of_phase hb (hinv.cnt_lt_len hb) v <;> simp [Block.afterInstr, hb, hv] <;> omega
    | abort | clrerr | nop | rdstat | rdacc | rdchk | rdcnt | rdlen | rderrw => rfl

/-- Settles O27: the cases of `Block.afterWord_cases`, an open frame's byte by its phase. -/
theorem onlyListedWritersChangeAnElement : Obligations.OnlyListedWritersChangeAnElement := by
  intro s w rest h hinv
  refine ⟨_, step_accepts_eq h, ?_⟩
  dsimp only
  obtain ⟨n, hd, hn, hb⟩ | ⟨v, hd, hbusy, hb⟩ | ⟨hd, hb⟩ | ⟨hd, hb⟩ | ⟨c, he, hb⟩ | ⟨i, hd, hi, -, hb⟩ :=
    s.block.afterWord_cases w <;> rw [hb]
  · have hopens : ∃ n : Half, 2 ≤ n.toNat ∧ decode w = .ok (.start n) := ⟨n, hn, hd⟩
    simp [hopens]
  · have hpushes : ∃ byte, decode w = .ok (.push byte) := ⟨v, hd⟩
    obtain ⟨hp, -, hv⟩ | ⟨hp, -, hv⟩ | ⟨hp, -, hv⟩ := Block.takeByte_of_phase hbusy (hinv.cnt_lt_len hbusy) v <;>
      simp [hpushes, hp, hv]
  · simp [hd]
  · simp [hd]
  · simp +contextual [he, Block.recordError_eq]
  · simp

/-- Settles O25: each bit of the concatenation, read at its place. -/
theorem statusWordLayout : Obligations.StatusWordLayout := by
  intro b
  refine ⟨?busy, ?done, ?matched, ?errIll, ?errLen, ?errOvr, ?phase, ?ecode, ?zero⟩
  case phase | ecode =>
    ext i hi
    simp only [Block.status, BitVec.getElem_extractLsb', BitVec.getLsbD_setWidth, BitVec.getLsbD_append]
    interval_cases i <;> simp
  case zero =>
    ext i hi
    simp [Block.status]
  all_goals
    simp only [Block.status, BitVec.getLsbD_setWidth, BitVec.getLsbD_append]
    simp

/-- Settles O29: each output is the flag, or the combination of flags, that R38 writes. -/
theorem outputsAreLevelsOfTheState : Obligations.OutputsAreLevelsOfTheState := by
  intro b
  simp [Block.busyOut, Block.doneOut, Block.okOut, Block.errOut, or_assoc]

/-- Settles O33: `Block.reset` evaluated, with its views. -/
theorem resetValues : Obligations.ResetValues := by
  unfold Obligations.ResetValues
  decide

end Sys2Proof.Machine
end

section
/-! SUPPORT. The same command once and twice (20_memory.md R50): what each operation on the block does to its own result. -/

namespace Sys2Proof.Machine

@[simp] theorem Block.openFrame_openFrame (b : Block) (n : Half) : (b.openFrame n).openFrame n = b.openFrame n := rfl

@[simp] theorem Block.abandonFrame_abandonFrame (b : Block) : b.abandonFrame.abandonFrame = b.abandonFrame := rfl

@[simp] theorem Block.clearErrors_clearErrors (b : Block) : b.clearErrors.clearErrors = b.clearErrors := rfl

theorem errorCode_ne_zero (c : ErrorCause) : errorCode c ≠ 0#4 := by cases c <;> decide

/-- The first record leaves a code that is not 0, so the second keeps its code and word (60_exceptions.md R121). -/
@[simp] theorem Block.recordError_recordError (b : Block) (c : ErrorCause) (w : Word) :
    (b.recordError c w).recordError c w = b.recordError c w := by
  by_cases h : b.ecode = 0#4 <;> simp [Block.recordError_eq, h, errorCode_ne_zero]

theorem Block.afterInstr_of_leavesFrame {i : Instr} (hi : i ≠ .clrerr) (hl : leavesFrame i = true) (b : Block) :
    b.afterInstr i = b := by
  cases i with
  | clrerr => exact absurd rfl hi
  | start _ | push _ | abort => cases hl
  | nop | rdstat | rdacc | rdchk | rdcnt | rdlen | rderrw => rfl

theorem Block.afterInstr_push_of_idle {b : Block} (hb : b.busy = false) (v : Byte) :
    b.afterInstr (.push v) = b.recordError .ovr (encode (.push v)) := by
  simp [Block.afterInstr, hb]

/-- The refused `PUSH` opens no frame, so the second is refused with the same record (60_exceptions.md R118, R122). -/
theorem Block.afterInstr_push_push_of_idle {b : Block} (hb : b.busy = false) (v : Byte) :
    (b.afterInstr (.push v)).afterInstr (.push v) = b.recordError .ovr (encode (.push v)) := by
  have hidle : (b.recordError .ovr (encode (.push v))).busy = false := by simp [Block.recordError_eq, hb]
  rw [afterInstr_push_of_idle hb, afterInstr_push_of_idle hidle, recordError_recordError]

/-- The commands that a second time change nothing: `ABORT`, `CLRERR` and a legal `START`. -/
theorem Block.afterInstr_afterInstr {i : Instr}
    (hi : i = .abort ∨ i = .clrerr ∨ ∃ n : Half, 2 ≤ n.toNat ∧ i = .start n) (b : Block) :
    (b.afterInstr i).afterInstr i = b.afterInstr i := by
  obtain rfl | rfl | ⟨n, hn, rfl⟩ := hi
  · exact b.abandonFrame_abandonFrame
  · exact b.clearErrors_clearErrors
  · have hlegal : lengthLegal n = true := decide_eq_true hn
    simp [Block.afterInstr, hlegal]

end Sys2Proof.Machine
end

section
/-! PROOFS. The statement of 20_memory.md R50. -/

namespace Sys2Proof.Machine

/-- Settles O30: `exec_eq` gives the block after a command, and the operations on the block are idempotent but for the
one that takes a byte. -/
theorem repeatedCommands : Obligations.RepeatedCommands := by
  refine ⟨?reads, ?idempotent, ?accepted, ?refused⟩
  case reads =>
    intro i s hi hl
    exact ⟨_, exec_eq i s, s.block.afterInstr_of_leavesFrame hi hl⟩
  case idempotent =>
    intro i s hi
    exact ⟨_, _, exec_eq i s, exec_eq i _, s.block.afterInstr_afterInstr hi⟩
  case accepted =>
    intro v s hb
    obtain ⟨t, hstep, ht⟩ := exec_push_of_busy hb v
    have hcnt : t.block.cnt = s.block.cnt + 1 := ht ▸ s.block.takeByte_cnt v
    exact ⟨t, hstep, hcnt, fun hinv => hcnt ▸ Block.cnt_succ_toNat (hinv.cnt_lt_len hb)⟩
  case refused =>
    intro v s hb
    have hfirst := Block.afterInstr_push_of_idle hb v
    have hsecond := Block.afterInstr_push_push_of_idle hb v
    have hframe := s.block.recordError_sameFrame .ovr (encode (.push v))
    have hovr : (s.block.recordError .ovr (encode (.push v))).errOvr = true := by simp [Block.recordError_eq]
    exact ⟨_, _, exec_eq _ s, hfirst ▸ hframe, exec_eq _ _, hsecond.trans hfirst.symm,
      (congrArg Block.errOvr hsecond).trans hovr⟩

end Sys2Proof.Machine
end

section
/-! SUPPORT. What a word is, field by field (30_encoding.md R55 to R60): the word of a command decodes to it, the words of
no command, the words a row of the opcode map names, and how many commands there are. -/

namespace Sys2Proof

/-- The other direction of `encode_of_decode`: the word of a command decodes to it (R56, R59). -/
@[simp] theorem decode_encode (i : Instr) : decode (encode i) = .ok i := by
  cases i with
  | push v => simp [encode, decodeOp]
  | start _ | nop | abort | clrerr | rdstat | rdacc | rdchk | rdcnt | rdlen | rderrw =>
    simp [encode, decodeOp, withoutOperand]

theorem encode_injective : Function.Injective encode := fun i j h =>
  Except.ok.inj ((decode_encode i).symm.trans ((congrArg decode h).trans (decode_encode j)))

/-- The legal words are the words of the commands. -/
theorem exists_decode_ok_iff (w : Word) : (∃ i, decode w = .ok i) ↔ w ∈ Set.range encode :=
  ⟨fun ⟨i, h⟩ => ⟨i, encode_of_decode h⟩, fun ⟨i, h⟩ => ⟨i, h ▸ decode_encode i⟩⟩

/-! ### The operand fields -/

theorem immByte_immField (w : Word) : immByte (immField w) = w.extractLsb' 0 8 := by
  ext i hi
  simp [immByte, immField]

theorem immHigh_immField (w : Word) : immHigh (immField w) = w.extractLsb' 8 8 := by
  ext i hi
  simp [immHigh, immField]

theorem operand_of_decode_start {w : Word} {n : Half} (h : decode w = .ok (.start n)) : n = immField w := by
  rw [← encode_of_decode h, encode, immField_commandWord]

theorem operand_of_decode_push {w : Word} {v : Byte} (h : decode w = .ok (.push v)) : v = w.extractLsb' 0 8 := by
  rw [← immByte_immField, ← encode_of_decode h, encode, immField_commandWord, immByte_zero_append]

/-! ### The illegal words -/

theorem withoutOperand_error {imm : Half} {i : Instr} : (∃ why, withoutOperand imm i = .error why) ↔ imm ≠ 0 := by
  unfold withoutOperand
  split <;> simp_all

/-- The opcodes and operands of no command: a reserved opcode (R60), or a bit of the operand that must be 0 (R58). -/
theorem decodeOp_error_iff (op : BitVec 4) (imm : Half) :
    (∃ why, decodeOp op imm = .error why) ↔
      11 ≤ op.toNat ∨ (op = 2#4 ∧ immHigh imm ≠ 0#8) ∨ (op ≠ 1#4 ∧ op ≠ 2#4 ∧ op.toNat ≤ 10 ∧ imm ≠ 0#16) := by
  have hop : op = BitVec.ofNat 4 op.toNat := by simp
  unfold decodeOp
  split
  case h_12 =>
    have hreserved : 11 ≤ op.toNat := by grind
    simp [hreserved]
  case h_3 hn =>
    rw [hn] at hop
    subst hop
    split <;> simp_all
  all_goals
    rename_i hn
    rw [hn] at hop
    subst hop
    simp [withoutOperand_error]

theorem decode_error_iff (w : Word) :
    (∃ why, decode w = .error why) ↔ rsvField w ≠ 0 ∨ ∃ why, decodeOp (opField w) (immField w) = .error why := by
  unfold decode
  split <;> simp_all

/-! ### The opcode map -/

theorem opField_and (a b : Word) : opField (a &&& b) = opField a &&& opField b := BitVec.extractLsb'_and
theorem rsvField_and (a b : Word) : rsvField (a &&& b) = rsvField a &&& rsvField b := BitVec.extractLsb'_and
theorem immField_and (a b : Word) : immField (a &&& b) = immField a &&& immField b := BitVec.extractLsb'_and
theorem immHigh_and (a b : Half) : immHigh (a &&& b) = immHigh a &&& immHigh b := BitVec.extractLsb'_and

theorem OpcodeRow.names_def (r : OpcodeRow) {w : Word} : r.names w = true ↔ w &&& r.maskBits = r.matchBits := beq_iff_eq

/-- Every mask of R56 covers the whole of `OP` and `RSV`, and every match has `RSV = 0`. -/
theorem opcodeTable_masks : ∀ r ∈ opcodeTable,
    opField r.maskBits = BitVec.allOnes 4 ∧ rsvField r.maskBits = BitVec.allOnes 12 ∧ rsvField r.matchBits = 0 := by
  decide

/-- A word that a row names has the row's `OP`, `RSV = 0`, and the bits of its operand that the row fixes. -/
theorem OpcodeRow.names_fields {r : OpcodeRow} (hr : r ∈ opcodeTable) {w : Word} (h : r.names w = true) :
    opField w = opField r.matchBits ∧ rsvField w = 0 ∧ immField w &&& immField r.maskBits = immField r.matchBits := by
  obtain ⟨hop, hrsv, hzero⟩ := opcodeTable_masks r hr
  have hw := r.names_def.mp h
  refine ⟨?_, ?_, ?_⟩
  · rw [← hw, opField_and, hop, BitVec.and_allOnes]
  · rw [← hzero, ← hw, rsvField_and, hrsv, BitVec.and_allOnes]
  · rw [← hw, immField_and]

theorem opcodeTable_mnemonic_injective : ∀ r ∈ opcodeTable, ∀ r' ∈ opcodeTable, r.mnemonic = r'.mnemonic → r = r' := by
  decide

/-- Every command has a row, and it names the command's word. -/
theorem exists_row_names_encode (i : Instr) : ∃ r ∈ opcodeTable, r.mnemonic = i.mnemonic ∧ r.names (encode i) = true := by
  cases i with
  | start n => exact Laws.TableRow.start n
  | push v => exact Laws.TableRow.push v
  | nop => exact Laws.TableRow.nop
  | abort => exact Laws.TableRow.abort
  | clrerr => exact Laws.TableRow.clrerr
  | rdstat => exact Laws.TableRow.rdstat
  | rdacc => exact Laws.TableRow.rdacc
  | rdchk => exact Laws.TableRow.rdchk
  | rdcnt => exact Laws.TableRow.rdcnt
  | rdlen => exact Laws.TableRow.rdlen
  | rderrw => exact Laws.TableRow.rderrw

/-- The rows: `START`, whose operand is free, `PUSH`, whose operand's low byte is free, and those that name one word. -/
theorem opcodeTable_cases : ∀ r ∈ opcodeTable,
    r = ⟨.start, 0x10000000#32, 0xFFFF0000#32⟩ ∨ r = ⟨.push, 0x20000000#32, 0xFFFFFF00#32⟩ ∨
    (r.maskBits = BitVec.allOnes 32 ∧ (decode r.matchBits).toOption.map Instr.mnemonic = some r.mnemonic) := by
  decide

/-- A word that a row names decodes to a command of the row's mnemonic. -/
theorem OpcodeRow.decode_of_names {r : OpcodeRow} (hr : r ∈ opcodeTable) {w : Word} (h : r.names w = true) :
    ∃ i, decode w = .ok i ∧ i.mnemonic = r.mnemonic := by
  obtain ⟨hop, hrsv, himm⟩ := r.names_fields hr h
  have hd : decode w = decodeOp (opField r.matchBits) (immField w) := by simp [decode, hrsv, hop]
  obtain rfl | rfl | ⟨hmask, hmatch⟩ := opcodeTable_cases r hr
  · exact ⟨.start (immField w), hd, rfl⟩
  · have hmask : immHigh (immField 0xFFFFFF00#32) = BitVec.allOnes 8 := by decide
    have hhigh : immHigh (immField w) = 0 :=
      calc immHigh (immField w)
        _ = immHigh (immField w &&& immField 0xFFFFFF00#32) := by rw [immHigh_and, hmask, BitVec.and_allOnes]
        _ = immHigh (immField 0x20000000#32) := by rw [himm]
        _ = 0 := by decide
    exact ⟨.push (immByte (immField w)), hd.trans (if_pos hhigh), rfl⟩
  · have hw : w = r.matchBits := by rw [← r.names_def.mp h, hmask, BitVec.and_allOnes]
    rw [hw]
    cases hi : decode r.matchBits with
    | ok i => exact ⟨i, rfl, by simpa [hi, Except.toOption] using hmatch⟩
    | error why => simp [hi, Except.toOption] at hmatch

theorem OpcodeRow.names_iff {r : OpcodeRow} (hr : r ∈ opcodeTable) (w : Word) :
    r.names w = true ↔ ∃ i, decode w = .ok i ∧ i.mnemonic = r.mnemonic := by
  refine ⟨r.decode_of_names hr, fun ⟨i, hd, hm⟩ => ?_⟩
  obtain ⟨r', hr', hm', hn⟩ := exists_row_names_encode i
  rw [opcodeTable_mnemonic_injective r hr r' hr' (hm.symm.trans hm'.symm), ← encode_of_decode hd]
  exact hn

/-! ### The number of commands -/

/-- The nine commands without an operand. -/
def plainCommand : Fin 9 → Instr := ![.nop, .abort, .clrerr, .rdstat, .rdacc, .rdchk, .rdcnt, .rdlen, .rderrw]

/-- A command is a `START` with its length, a `PUSH` with its byte, or one of the nine without an operand. -/
def instrEquiv : Instr ≃ Half ⊕ Byte ⊕ Fin 9 where
  toFun
    | .start n => .inl n
    | .push v => .inr (.inl v)
    | .nop => .inr (.inr 0)
    | .abort => .inr (.inr 1)
    | .clrerr => .inr (.inr 2)
    | .rdstat => .inr (.inr 3)
    | .rdacc => .inr (.inr 4)
    | .rdchk => .inr (.inr 5)
    | .rdcnt => .inr (.inr 6)
    | .rdlen => .inr (.inr 7)
    | .rderrw => .inr (.inr 8)
  invFun
    | .inl n => .start n
    | .inr (.inl v) => .push v
    | .inr (.inr k) => plainCommand k
  left_inv i := by cases i <;> rfl
  right_inv
    | .inl _ => rfl
    | .inr (.inl _) => rfl
    | .inr (.inr k) => by fin_cases k <;> rfl

theorem natCard_bitVec (n : Nat) : Nat.card (BitVec n) = 2 ^ n := by
  rw [Nat.card_congr BitVec.equivFin.toEquiv, Nat.card_fin]

theorem natCard_instr : Nat.card Instr = 65801 := by
  rw [Nat.card_congr instrEquiv, Nat.card_sum, Nat.card_sum, natCard_bitVec, natCard_bitVec, Nat.card_fin]
  norm_num

end Sys2Proof
end

section
/-! PROOFS. The statements of 30_encoding.md about the opcode map and the illegal words. -/

namespace Sys2Proof.Machine

/-- Settles O4: a row names exactly the words of its mnemonic's commands (`OpcodeRow.names_iff`), and the legal words are
the range of the injective `encode`. -/
theorem opcodeMapIsExact : Obligations.OpcodeMapIsExact := by
  refine ⟨fun w r hr => r.names_iff hr w, fun w i _ => ?row, fun _ _ => operand_of_decode_start,
    fun _ _ => operand_of_decode_push, fun w r hr r' hr' hn hn' => ?disjoint, ?count⟩
  case row =>
    obtain ⟨r, hr, hm, -⟩ := exists_row_names_encode i
    exact ⟨r, hr, hm⟩
  case disjoint =>
    obtain ⟨i, hd, hm⟩ := r.decode_of_names hr hn
    obtain ⟨j, hd', hm'⟩ := r'.decode_of_names hr' hn'
    obtain rfl : i = j := Except.ok.inj (hd.symm.trans hd')
    exact opcodeTable_mnemonic_injective r hr r' hr' (hm.symm.trans hm')
  case count =>
    have hlegal : {w : Word | ∃ i, decode w = .ok i} = Set.range encode := Set.ext exists_decode_ok_iff
    rw [hlegal, Set.ncard_range_of_injective encode_injective, natCard_instr]

/-- Settles O5: `RSV` first (`decode_error_iff`), then the opcode with its operand (`decodeOp_error_iff`). -/
theorem illegalWordsAreTheListedOnes : Obligations.IllegalWordsAreTheListedOnes := by
  intro w
  rw [decode_error_iff, decodeOp_error_iff, immHigh_immField]
  rfl

end Sys2Proof.Machine
end

section
/-! SUPPORT. The assembler on bytes and halves, whose values are always in range (30_encoding.md R62, R64 to R66), and its
refusal of a line that is not well-formed. -/

namespace Sys2Proof.Machine

theorem assemble_of_wellFormed {l : SourceLine} (h : l.wellFormed = true) : assemble l = some (lineWords l) := if_pos h

theorem assemble_of_not_wellFormed {l : SourceLine} (h : ¬ l.wellFormed = true) : assemble l = none := if_neg h

theorem all_fitsByte_map_toNat (bytes : List Byte) : (bytes.map BitVec.toNat).all fitsByte = true := by
  exact List.all_eq_true.mpr (List.forall_mem_map.mpr fun b _ => decide_eq_true b.isLt)

theorem map_ofNat_map_toNat (bytes : List Byte) : (bytes.map BitVec.toNat).map (BitVec.ofNat 8) = bytes := by
  simp [Function.comp_def]

/-- `PUSHW` of a half, which is always in range (R64). -/
theorem assemble_pushw_toNat (v : Half) : assemble (.pushw v.toNat) = some ((pushwCommands v).map encode) := by
  have hfits : (SourceLine.pushw v.toNat).wellFormed = true := decide_eq_true v.isLt
  rw [assemble_of_wellFormed hfits, lineWords, BitVec.ofNat_toNat, BitVec.setWidth_eq]

/-- `FRAME` of bytes, when a `START` has such a length (R65). -/
theorem assemble_frame_toNat {bytes : List Byte} (hmin : 2 ≤ bytes.length) (hmax : bytes.length ≤ 65535) :
    assemble (.frame (bytes.map BitVec.toNat)) = some ((frameCommands bytes).map encode) := by
  have hfits : (SourceLine.frame (bytes.map BitVec.toNat)).wellFormed = true := by
    simp only [SourceLine.wellFormed, all_fitsByte_map_toNat, List.length_map, Bool.and_true, Bool.and_eq_true,
      decide_eq_true_eq]
    exact ⟨hmin, hmax⟩
  rw [assemble_of_wellFormed hfits, lineWords, map_ofNat_map_toNat]

/-- `FRAMECK` of bytes, when a `START` has such a length (R66). -/
theorem assemble_frameck_toNat {bytes : List Byte} (hmax : bytes.length + 2 ≤ 65535) :
    assemble (.frameck (bytes.map BitVec.toNat)) = some ((frameckCommands bytes).map encode) := by
  have hfits : (SourceLine.frameck (bytes.map BitVec.toNat)).wellFormed = true := by
    simpa only [SourceLine.wellFormed, all_fitsByte_map_toNat, List.length_map, Bool.and_true, decide_eq_true_eq] using hmax
  rw [assemble_of_wellFormed hfits, lineWords, map_ofNat_map_toNat]

end Sys2Proof.Machine
end

section
/-! SUPPORT. A whole frame as a sequence of commands (40_frame_control.md R75, 41_accumulate.md R87): the run of command
words as a fold of `Block.afterInstr` over the block, and what `START n` and `n` bytes leave of it. -/

namespace Sys2Proof.Machine

@[simp] theorem Block.afterInput_command_encode (b : Block) (i : Instr) :
    b.afterInput (.command (encode i)) = b.afterInstr i :=
  Block.afterWord_ok (decode_encode i) b

theorem Block.foldl_afterInput_commands (is : List Instr) (b : Block) :
    ((is.map encode).map Input.command).foldl Block.afterInput b = is.foldl Block.afterInstr b := by
  simp [List.foldl_map]

/-- After a reset, as many steps as there are commands at the port take them all, in order. -/
theorem run_commands {s : State} {is : List Instr} {rest : List Input} (hr : s.wasReset = true)
    (hi : s.inputs = (is.map encode).map Input.command ++ rest) :
    ∃ t, run is.length s = .next t ∧ t.inputs = rest ∧ t.block = is.foldl Block.afterInstr s.block := by
  obtain ⟨t, hrun, -, hrest, hb⟩ := run_inputs is.length hr
  have hlen : ((is.map encode).map Input.command).length = is.length := by simp
  rw [hi, List.drop_left' hlen] at hrest
  rw [hi, List.take_left' hlen, Block.foldl_afterInput_commands] at hb
  exact ⟨t, hrun, hrest, hb⟩

theorem Block.afterInstr_start {n : Half} (hn : 2 ≤ n.toNat) (b : Block) : b.afterInstr (.start n) = b.openFrame n :=
  if_pos (decide_eq_true hn)

theorem Block.afterInstr_push_of_busy {b : Block} (hb : b.busy = true) (v : Byte) :
    b.afterInstr (.push v) = b.takeByte v :=
  if_pos hb

/-- An open frame's data byte (R87, phase DATA). -/
theorem Block.afterInstr_push_data {b : Block} (hb : b.busy = true) (hpos : b.cnt.toNat + 2 < b.len.toNat) (v : Byte) :
    b.afterInstr (.push v) = b.takeData v := by
  obtain ⟨-, h⟩ | ⟨hcnt, -⟩ | ⟨hcnt, -⟩ := b.takeByte_cases v
  · exact (afterInstr_push_of_busy hb v).trans h
  all_goals omega

/-- The last two bytes of an open frame (R87, phases CHK_HI and CHK_LO). -/
theorem Block.afterInstr_push_field {b : Block} (hb : b.busy = true) (hpos : b.cnt.toNat + 2 = b.len.toNat)
    (high low : Byte) : (b.afterInstr (.push high)).afterInstr (.push low) = (b.takeHigh high).takeLow low := by
  have hhigh : b.afterInstr (.push high) = b.takeHigh high := by
    obtain ⟨hcnt, -⟩ | ⟨-, h⟩ | ⟨hcnt, -⟩ := b.takeByte_cases high
    · omega
    · exact (afterInstr_push_of_busy hb high).trans h
    · omega
  have hcnt : (b.takeHigh high).cnt.toNat = b.cnt.toNat + 1 := Block.cnt_succ_toNat (by omega)
  have hlen : (b.takeHigh high).len.toNat = b.len.toNat := rfl
  rw [hhigh]
  obtain ⟨hlow, -⟩ | ⟨hlow, -⟩ | ⟨-, h⟩ := (b.takeHigh high).takeByte_cases low
  · omega
  · omega
  · exact (afterInstr_push_of_busy (b := b.takeHigh high) hb low).trans h

/-- The checksum as the accumulator builds it, byte by byte (R88). -/
theorem cs16_eq_foldl (bs : List Byte) : cs16 bs = bs.foldl addByte 0#16 := by
  induction bs using List.reverseRecOn with
  | nil => rfl
  | append_singleton bs v ih => rw [cs16_append_singleton, ih, List.foldl_append, List.foldl_cons, List.foldl_nil]

/-- Bytes pushed into an open frame that has room for them before its checksum field are summed and counted. -/
theorem Block.foldl_push_data (bytes : List Byte) {b : Block} (hb : b.busy = true)
    (hroom : b.cnt.toNat + bytes.length + 2 ≤ b.len.toNat) :
    (bytes.map Instr.push).foldl Block.afterInstr b =
      { b with acc := bytes.foldl addByte b.acc, cnt := b.cnt + BitVec.ofNat 16 bytes.length } := by
  induction bytes generalizing b with
  | nil => simp
  | cons v bytes ih =>
    rw [List.length_cons] at hroom
    have hcnt : (b.takeData v).cnt.toNat = b.cnt.toNat + 1 := Block.cnt_succ_toNat (by omega)
    have hlen : (b.takeData v).len.toNat = b.len.toNat := rfl
    have hcount : b.cnt + 1#16 + BitVec.ofNat 16 bytes.length = b.cnt + BitVec.ofNat 16 (bytes.length + 1) := by
      rw [BitVec.ofNat_add, BitVec.add_assoc, BitVec.add_comm 1#16]
    rw [List.map_cons, List.foldl_cons, Block.afterInstr_push_data hb (by omega), ih (b := b.takeData v) hb (by omega)]
    simp [takeData, hcount]

/-- The two bytes of the field, one after the other. -/
theorem withLowByte_withHighByte (chk : Half) (high low : Byte) :
    withLowByte (withHighByte chk high) low = high ++ low := by
  rw [withLowByte, withHighByte_high]

/-- `START n` and the `n` bytes of a frame complete it, from any block: the sum, the field and the result (R27, R90). -/
theorem Block.afterFrame (b : Block) (bytes : List Byte) (high low : Byte) (hmax : bytes.length + 2 ≤ 65535) :
    (frameCommands (bytes ++ [high, low])).foldl Block.afterInstr b =
      { b with
        acc := cs16 bytes
        cnt := BitVec.ofNat 16 (bytes.length + 2)
        len := BitVec.ofNat 16 (bytes.length + 2)
        chk := high ++ low
        busy := false
        done := true
        matched := cs16 bytes == high ++ low } := by
  have hn : (BitVec.ofNat 16 (bytes.length + 2)).toNat = bytes.length + 2 := Nat.mod_eq_of_lt (by omega)
  have hk : (BitVec.ofNat 16 bytes.length).toNat = bytes.length := Nat.mod_eq_of_lt (by omega)
  have hsplit : frameCommands (bytes ++ [high, low]) =
      .start (BitVec.ofNat 16 (bytes.length + 2)) :: (bytes.map .push ++ [.push high, .push low]) := by
    simp [frameCommands]
  have hcount : BitVec.ofNat 16 bytes.length + 1#16 + 1#16 = BitVec.ofNat 16 (bytes.length + 2) := by
    rw [BitVec.add_assoc, BitVec.ofNat_add]
    rfl
  have hdata := Block.foldl_push_data bytes (b := b.openFrame (BitVec.ofNat 16 (bytes.length + 2))) rfl (by simp [hn])
  rw [hsplit, List.foldl_cons, Block.afterInstr_start (by omega), List.foldl_append, hdata, List.foldl_cons,
    List.foldl_cons, List.foldl_nil, Block.afterInstr_push_field rfl (by simp [hn, hk])]
  simp [takeHigh, takeLow, openFrame, ← cs16_eq_foldl, withLowByte_withHighByte, hcount]

end Sys2Proof.Machine
end

section
/-! PROOFS. The statements of 30_encoding.md about the pseudo-instructions. -/

namespace Sys2Proof.Machine

/-- Settles O51: the expansions are those of `pushwCommands` and `frameCommands`, every byte and half being in range. -/
theorem pseudoInstructionsExpand : Obligations.PseudoInstructionsExpand := by
  refine ⟨assemble_pushw_toNat, fun bytes hmin hmax => ?frame, fun bytes hshort => ?short⟩
  case frame =>
    refine ⟨_, assemble_frame_toNat hmin hmax, ?_, ?_⟩ <;> simp [frameCommands]
  case short =>
    refine assemble_of_not_wellFormed fun h => ?_
    simp only [SourceLine.wellFormed, Bool.and_eq_true, decide_eq_true_eq] at h
    obtain ⟨⟨hmin, -⟩, -⟩ := h
    exact absurd hmin (Nat.not_le.mpr hshort)

/-- The halves of a checksum are its field, so `FRAMECK` is the `FRAME` of the data bytes and those halves (R66). -/
theorem frameckCommands_eq (bytes : List Byte) :
    frameckCommands bytes =
      frameCommands (bytes ++ [(cs16 bytes).extractLsb' 8 8, (cs16 bytes).extractLsb' 0 8]) := by
  simp [frameckCommands, frameCommands, pushwCommands]

/-- Settles O42: the words are the frame of the data bytes and the two halves of their sum, whose field is that sum. -/
theorem frameckAlwaysMatches : Obligations.FrameckAlwaysMatches := by
  intro bytes hmax words
  refine ⟨assemble_frameck_toNat hmax, by simp [words], fun s hr hi => ?_⟩
  have hi' : s.inputs = ((frameckCommands bytes).map encode).map Input.command ++ [] := hi.trans (List.append_nil _).symm
  have hwords : words.length = (frameckCommands bytes).length := List.length_map _
  obtain ⟨t, hrun, -, hb⟩ := run_commands hr hi'
  rw [frameckCommands_eq, Block.afterFrame _ _ _ _ hmax, BitVec.extractLsb'_append_extractLsb'] at hb
  exact ⟨t, hwords ▸ hrun, by rw [hb], by simp [hb]⟩

end Sys2Proof.Machine
end

section
/-! SUPPORT. The frame control commands one equation per branch (40_frame_control.md R75, R76), what an error of code 2
writes, and the illegal words of an opcode without an operand. -/

namespace Sys2Proof

/-- `START n` is the word `0x1000_0000 | n` (R75). -/
theorem encode_start (n : Half) : encode (.start n) = 0x1000#16 ++ n := rfl

/-- An opcode but those of `START` and `PUSH` has at most one legal word, the one whose other bits are 0 (R58). -/
theorem decode_error_of_ne_commandWord {w : Word} (hstart : opField w ≠ 1#4) (hpush : opField w ≠ 2#4)
    (hw : w ≠ commandWord (opField w) 0) : ∃ why, decode w = .error why := by
  cases hd : decode w with
  | error why => exact ⟨why, rfl⟩
  | ok i =>
    obtain ⟨hfields, hop⟩ := decode_ok_fields hd
    obtain ⟨h, -⟩ | ⟨h, -⟩ | ⟨himm, -⟩ := decodeOp_ok_cases hop
    · exact absurd h hstart
    · exact absurd h hpush
    · exact absurd (himm ▸ hfields) hw

end Sys2Proof

namespace Sys2Proof.Machine

theorem exec_start_of_legal {n : Half} (hn : 2 ≤ n.toNat) (s : State) :
    exec (.start n) s = .next (s.effect (s.block.openFrame n)) :=
  if_pos (decide_eq_true hn)

theorem exec_start_of_short {n : Half} (hn : n.toNat < 2) (s : State) :
    exec (.start n) s = .next (raiseError .len (encode (.start n)) s) :=
  if_neg fun hlegal => Nat.not_le.mpr hn (of_decide_eq_true hlegal)

theorem exec_abort (s : State) : exec .abort s = .next (s.effect s.block.abandonFrame) := rfl

/-- The record of a short `START` (60_exceptions.md R117, R121): its flag, and code 2 with the word if it is the first. -/
theorem Block.recordError_len (b : Block) (w : Word) :
    b.recordError .len w = { b with
      errLen := true
      ecode := if b.ecode = 0#4 then 2#4 else b.ecode
      errw := if b.ecode = 0#4 then w else b.errw } := by
  simp [Block.recordError_eq, errorCode]

end Sys2Proof.Machine
end

section
/-! PROOFS. The statements of 40_frame_control.md. -/

namespace Sys2Proof.Machine

/-- Settles O12: the two branches of `START` are `exec_start_of_legal` and `exec_start_of_short`, whose record is
`Block.recordError_len`. -/
theorem startOpensFrameOrRaisesLen : Obligations.StartOpensFrameOrRaisesLen := by
  refine ⟨fun n => ?word, fun w _ hrsv => ?illegal, fun n s hn => ?legal, fun n s hn => ?short⟩
  case word => rw [← encode_start, decode_encode]
  case illegal => exact (decode_error_iff w).mpr (.inl hrsv)
  case legal => exact exec_start_of_legal hn s
  case short =>
    rw [exec_start_of_short hn, raiseError, Block.recordError_len, encode_start]
    rfl

/-- Settles O13: a word of opcode 3 that is not `ABORT`'s falls under `decode_error_of_ne_commandWord`, and the block after
`ABORT` has `BUSY` and `DONE` 0, which gives the phase and the outputs. -/
theorem abortClearsFrameAndResult : Obligations.AbortClearsFrameAndResult := by
  refine ⟨decode_encode .abort, fun w hop hw => ?illegal,
    fun s => ⟨exec_abort s, Block.phase_of_idle rfl, rfl, rfl, rfl⟩⟩
  case illegal =>
    have hfield : opField w = 3#4 := hop
    exact decode_error_of_ne_commandWord (by simp [hfield]) (by simp [hfield]) (hfield ▸ hw)

end Sys2Proof.Machine
end

section
/-! SUPPORT. The laws of the reference functions (41_accumulate.md R85, R86, R88): the checksum as a sum of 16-bit values,
the exact sum of bytes, the field of two bytes, and the validity of a frame split into its data bytes and its field. -/

namespace Sys2Proof.Machine

theorem cs16_cons (v : Byte) (bs : List Byte) : cs16 (v :: bs) = v.setWidth 16 + cs16 bs := by
  refine BitVec.eq_of_toNat_eq ?_
  simp only [cs16, byteSum, List.map_cons, List.sum_cons, BitVec.toNat_add, BitVec.toNat_ofNat, BitVec.toNat_setWidth]
  omega

/-- The checksum is the sum of the bytes as 16-bit values, so the laws of a sum in a commutative group hold of it (R88). -/
theorem cs16_eq_sum (bs : List Byte) : cs16 bs = (bs.map (BitVec.setWidth 16)).sum := by
  induction bs with
  | nil => rfl
  | cons v bs ih => rw [cs16_cons, ih, List.map_cons, List.sum_cons]

theorem cs16_perm {a b : List Byte} (h : a.Perm b) : cs16 a = cs16 b := by
  rw [cs16_eq_sum, cs16_eq_sum, (h.map _).sum_eq]

theorem cs16_congr {a b : List Byte} (h : byteSum a % 65536 = byteSum b % 65536) : cs16 a = cs16 b := by
  rw [cs16, cs16, h]

/-- A checksum tells a data byte from any other in its place: the sum changes by their difference (R92). -/
theorem cs16_set_inj {bs : List Byte} {i : Nat} (hi : i < bs.length) {v : Byte} :
    cs16 (bs.set i v) = cs16 bs ↔ v = bs[i] := by
  have hi' : i < (bs.map (BitVec.setWidth 16)).length := by rwa [List.length_map]
  rw [cs16_eq_sum, cs16_eq_sum, List.map_set, List.sum_set', dif_pos hi', List.getElem_map, add_eq_left, neg_add_eq_zero]
  refine ⟨fun h => ?_, fun h => by rw [h]⟩
  simpa using (congrArg (BitVec.setWidth 8) h).symm

theorem byteSum_le (bs : List Byte) : byteSum bs ≤ 255 * bs.length := by
  have hbyte : ∀ n ∈ bs.map BitVec.toNat, n ≤ 255 :=
    List.forall_mem_map.mpr fun v _ => Nat.le_of_lt_succ v.isLt
  simpa [byteSum, mul_comm] using List.sum_le_card_nsmul _ 255 hbyte

/-- Up to 257 bytes the sum does not wrap (R94). -/
theorem toNat_cs16_of_length_le {bs : List Byte} (h : bs.length ≤ 257) : (cs16 bs).toNat = byteSum bs := by
  have hle := byteSum_le bs
  rw [cs16, BitVec.toNat_ofNat, Nat.mod_mod, Nat.mod_eq_of_lt (by omega)]

theorem byteSum_replicate (k : Nat) (v : Byte) : byteSum (List.replicate k v) = k * v.toNat := by
  simp [byteSum]

/-- The big-endian value of two bytes is the two bytes side by side (20_memory.md R43). -/
theorem fieldValue_eq_append (high low : Byte) : fieldValue high low = high ++ low := by
  refine BitVec.eq_of_toNat_eq ?_
  have hhigh := high.isLt
  have hlow := low.isLt
  rw [fieldValue, BitVec.toNat_ofNat, BitVec.toNat_append, ← Nat.shiftLeft_add_eq_or_of_lt hlow, Nat.shiftLeft_eq,
    Nat.mod_eq_of_lt (by omega)]

/-- `Validate` of a frame written as its data bytes and its field (R86). -/
theorem validate_append_field (bs : List Byte) (high low : Byte) :
    validate (bs ++ [high, low]) = some (cs16 bs == high ++ low) := by
  simp [validate, fieldValue_eq_append]

theorem validate_append_field_eq_true {bs : List Byte} {high low : Byte} :
    validate (bs ++ [high, low]) = some true ↔ cs16 bs = high ++ low := by
  rw [validate_append_field, Option.some_inj, beq_iff_eq]

theorem validate_append_field_eq_false {bs : List Byte} {high low : Byte} :
    validate (bs ++ [high, low]) = some false ↔ cs16 bs ≠ high ++ low := by
  rw [validate_append_field, Option.some_inj, beq_eq_false_iff_ne]

/-- Only the checksum of the data bytes enters the validity of a frame. -/
theorem validate_append_field_congr {a b : List Byte} (h : cs16 a = cs16 b) (high low : Byte) :
    validate (a ++ [high, low]) = validate (b ++ [high, low]) := by
  rw [validate_append_field, validate_append_field, h]

/-- A frame of at least two bytes is its data bytes and its field. -/
theorem exists_eq_append_field {f : List Byte} {k : Nat} (h : f.length = k + 2) :
    ∃ (bs : List Byte) (high low : Byte), bs.length = k ∧ f = bs ++ [high, low] := by
  obtain ⟨high, low, hfield⟩ := List.length_eq_two.mp (show (f.drop k).length = 2 by simp [h])
  exact ⟨f.take k, high, low, by simp [h], by rw [← hfield, List.take_append_drop]⟩

/-- A frame with a verdict has at least two bytes. -/
theorem two_le_length_of_validate {f : List Byte} {v : Bool} (h : validate f = some v) : 2 ≤ f.length := by
  unfold validate at h
  split at h
  · have hdrop := congrArg List.length ‹f.drop (f.length - 2) = _›
    simp only [List.length_drop, List.length_cons, List.length_nil] at hdrop
    omega
  · cases h

/-- A frame of up to 257 data bytes is invalid when its field is above every sum of so many bytes (R94). -/
theorem validate_eq_false_of_high {bs : List Byte} {high : Byte} (hlen : bs.length ≤ 257)
    (hhigh : 255 * bs.length < high.toNat * 256) (low : Byte) : validate (bs ++ [high, low]) = some false := by
  refine validate_append_field_eq_false.mpr fun heq => ?_
  have hsum := toNat_cs16_of_length_le hlen
  have hle := byteSum_le bs
  have hfield : (cs16 bs).toNat = high.toNat * 256 + low.toNat := by
    rw [heq, BitVec.toNat_append, ← Nat.shiftLeft_add_eq_or_of_lt low.isLt, Nat.shiftLeft_eq]
  omega

/-- The bound of R94 for a frame of `k` data bytes, as the protocol states it: by the frame's length and its high byte. -/
theorem validate_eq_false_of_getD {f : List Byte} {k : Nat} (hlen : f.length = k + 2) (hk : k ≤ 257)
    (hhigh : 255 * k < (f.getD k 0).toNat * 256) : validate f = some false := by
  obtain ⟨bs, high, low, hbs, rfl⟩ := exists_eq_append_field hlen
  subst hbs
  refine validate_eq_false_of_high hk ?_ low
  simpa using hhigh

end Sys2Proof.Machine
end

section
/-! PROOFS. The statements of 41_accumulate.md about the reference functions. -/

namespace Sys2Proof.Machine

/-- Settles O43: the checksum is a sum in a commutative group (`cs16_perm`), and only it enters the validity. -/
theorem checksumIgnoresOrder : Obligations.ChecksumIgnoresOrder :=
  ⟨fun _ _ => cs16_perm, fun _ _ high low h => validate_append_field_congr (cs16_perm h) high low⟩

/-- Settles O44: a changed data byte changes the sum and leaves the field (`cs16_set_inj`); a changed byte of the field
changes the field and leaves the sum. -/
theorem singleByteCorruptionIsDetected : Obligations.SingleByteCorruptionIsDetected := by
  intro f i v hvalid hi hne
  obtain ⟨k, hk⟩ := Nat.exists_eq_add_of_le' (two_le_length_of_validate hvalid)
  obtain ⟨bs, high, low, -, rfl⟩ := exists_eq_append_field hk
  have hsum := validate_append_field_eq_true.mp hvalid
  rcases Nat.lt_or_ge i bs.length with hdata | hfield
  · rw [List.set_append_left _ _ hdata, validate_append_field_eq_false, ← hsum, ne_eq, cs16_set_inj hdata]
    rintro rfl
    exact hne (by rw [List.getElem?_append_left hdata, List.getElem?_eq_getElem hdata])
  · obtain ⟨j, rfl⟩ := Nat.exists_eq_add_of_le hfield
    have hj : j = 0 ∨ j = 1 := by
      simp only [List.length_append, List.length_cons, List.length_nil] at hi
      omega
    rw [List.set_append_right _ _ hfield, Nat.add_sub_cancel_left]
    obtain rfl | rfl := hj
    · have hhigh : high ≠ v := by simpa using hne
      rw [List.set_cons_zero, validate_append_field_eq_false, hsum]
      exact mt (BitVec.append_left_inj low).mp hhigh
    · have hlow : low ≠ v := by simpa using hne
      rw [List.set_cons_succ, List.set_cons_zero, validate_append_field_eq_false, hsum]
      exact mt (BitVec.append_right_inj high).mp hlow

/-- Settles O45: `byteSum_le` bounds every sum, and the two frame lengths are cases of `validate_eq_false_of_getD`. -/
theorem sumBoundsOfTheProtocol : Obligations.SumBoundsOfTheProtocol := by
  have hwrap := byteSum_replicate 258 0xFF#8
  refine ⟨byteSum_le, fun _ => toNat_cs16_of_length_le, hwrap, by rw [cs16, hwrap]; rfl, fun bs hlen => ?sum77,
    fun f hlen hhigh => ?frame79, fun bs hlen => ?sum2, fun f hlen hhigh => ?frame4⟩
  case sum77 | sum2 => exact (byteSum_le bs).trans (by omega)
  case frame79 => exact validate_eq_false_of_getD (k := 77) hlen (by omega) (by omega)
  case frame4 => exact validate_eq_false_of_getD (k := 2) hlen (by omega) (by omega)

/-- Settles O46: each of the three changes keeps the equality of sum and field (`validate_append_field_congr`,
`validate_append_field_eq_true`). -/
theorem undetectedCorruptions : Obligations.UndetectedCorruptions := by
  obtain ⟨-, hperm⟩ := checksumIgnoresOrder
  exact ⟨hperm, fun _ _ high low _ h => validate_append_field_congr (cs16_congr h) high low,
    fun b => validate_append_field_eq_true.mpr (BitVec.extractLsb'_append_extractLsb' (w := 8) (len := 8)).symm⟩

end Sys2Proof.Machine
end

section
/-! SUPPORT. A sequence of accepted words in full, with the responses to it (00_scope.md R11, 42_readback.md R100), and the
STATUS word of a block whose frame is complete. -/

namespace Sys2Proof.Machine

/-- The responses to words accepted one after the other. -/
def Block.responsesToWords (b : Block) : List Word → List Word
  | [] => []
  | w :: ws => b.responseToWord w :: (b.afterWord w).responsesToWords ws

@[simp] theorem Block.length_responsesToWords (ws : List Word) (b : Block) :
    (b.responsesToWords ws).length = ws.length := by
  induction ws generalizing b with
  | nil => rfl
  | cons w ws ih => simp [Block.responsesToWords, ih]

theorem Block.responsesToWords_append_singleton (ws : List Word) (w : Word) (b : Block) :
    b.responsesToWords (ws ++ [w]) = b.responsesToWords ws ++ [(ws.foldl Block.afterWord b).responseToWord w] := by
  induction ws generalizing b with
  | nil => rfl
  | cons w' ws ih => simp [Block.responsesToWords, ih]

/-- As many steps as there are words at the port take them all: the block and the words alone give the block after them
and the responses (`step_accepts_eq`, word by word). -/
theorem run_words (ws : List Word) {s : State} {rest : List Input} (hr : s.wasReset = true)
    (hi : s.inputs = ws.map Input.command ++ rest) :
    run ws.length s = .next { s with
      inputs := rest
      block := ws.foldl Block.afterWord s.block
      responses := s.responses ++ s.block.responsesToWords ws } := by
  induction ws generalizing s with
  | nil =>
    obtain rfl : s.inputs = rest := hi
    simp [Block.responsesToWords]
  | cons w ws ih =>
    rw [List.length_cons, run_succ (step_accepts_eq ⟨hr, hi⟩)]
    refine (ih ?reset ?inputs).trans ?_
    case reset => exact hr
    case inputs => rfl
    simp [Block.responsesToWords]

@[simp] theorem Block.afterWord_encode (b : Block) (i : Instr) : b.afterWord (encode i) = b.afterInstr i :=
  Block.afterWord_ok (decode_encode i) b

theorem Block.foldl_afterWord_encode (is : List Instr) (b : Block) :
    (is.map encode).foldl Block.afterWord b = is.foldl Block.afterInstr b := by
  simp [List.foldl_map]

/-- A `PUSH` responds with the STATUS after it, taken or refused. -/
theorem Block.responseToWord_encode_push (b : Block) (v : Byte) :
    b.responseToWord (encode (.push v)) = (b.afterWord (encode (.push v))).status := by
  rw [Block.responseToWord, decode_encode, Block.afterWord_encode]
  rfl

/-- The last response to words that end in a `PUSH` is the STATUS word of the block they leave. -/
theorem Block.getLast?_responsesToWords_push (ws : List Word) (v : Byte) (b : Block) :
    (b.responsesToWords (ws ++ [encode (.push v)])).getLast? =
      some ((ws ++ [encode (.push v)]).foldl Block.afterWord b).status := by
  rw [Block.responsesToWords_append_singleton, List.getLast?_concat, Block.responseToWord_encode_push, List.foldl_append,
    List.foldl_cons, List.foldl_nil]

/-- The last response to `START n` and the bytes of a frame is the STATUS word of the block they leave (R93). -/
theorem Block.getLast?_responsesToWords_frame (bytes : List Byte) (high low : Byte) (b : Block) :
    (b.responsesToWords ((frameCommands (bytes ++ [high, low])).map encode)).getLast? =
      some ((frameCommands (bytes ++ [high, low])).foldl Block.afterInstr b).status := by
  have hsplit : (frameCommands (bytes ++ [high, low])).map encode =
      (.start (BitVec.ofNat 16 (bytes.length + 2)) :: (bytes ++ [high]).map .push).map encode ++
        [encode (.push low)] := by
    simp [frameCommands]
  rw [hsplit, Block.getLast?_responsesToWords_push, ← hsplit, Block.foldl_afterWord_encode]

/-- The STATUS word of a complete frame (R31): bits 0 and 1 say so, bit 2 is `MATCH`, and the error part, bits 3 to 5 and
8 to 11, is that of any block with the same error state. -/
theorem Block.status_of_completed {b b₀ : Block} (hbusy : b.busy = false) (hdone : b.done = true)
    (herr : b.sameErrors b₀) :
    b.status =
      0x00000002#32 ||| ((BitVec.ofBool b.matched).setWidth 32 <<< 2) ||| (b₀.status &&& 0x00000F38#32) := by
  obtain ⟨hill, hlen, hovr, hecode, -⟩ := herr
  refine BitVec.eq_of_getLsbD_eq fun i hi => ?_
  simp only [Block.status, Block.phase_of_idle hbusy, hbusy, hdone, hill, hlen, hovr, hecode, phaseCode,
    BitVec.getLsbD_or, BitVec.getLsbD_and, BitVec.getLsbD_shiftLeft, BitVec.getLsbD_setWidth, BitVec.getLsbD_append]
  interval_cases i <;> simp

end Sys2Proof.Machine
end

section
/-! PROOFS. The streaming equivalence of 41_accumulate.md R93. -/

namespace Sys2Proof.Machine

/-- Settles O41: the words are those of `frameCommands`, `Block.afterFrame` gives the block after them, and the response to
the last `PUSH` is its STATUS word (`Block.status_of_completed`). -/
theorem streamingComputesValidate : Obligations.StreamingComputesValidate := by
  intro s bytes high low rest f hmax hr hi
  have hlen : f.length = bytes.length + 2 := List.length_append
  have hmax' : bytes.length + 2 ≤ 65535 := hlen ▸ hmax
  have hn : (BitVec.ofNat 16 (bytes.length + 2)).toNat = f.length := (Nat.mod_eq_of_lt (by omega)).trans hlen.symm
  have hcount : ((frameCommands f).map encode).length = f.length + 1 := by simp [frameCommands]
  have hrun := run_words ((frameCommands f).map encode) hr (rest := rest) (by simp [hi, frameCommands])
  have hlast := s.block.getLast?_responsesToWords_frame bytes high low
  rw [Block.afterFrame _ _ _ _ hmax'] at hlast
  rw [hcount, Block.foldl_afterWord_encode, Block.afterFrame _ _ _ _ hmax'] at hrun
  refine ⟨_, hrun, rfl, rfl, rfl, hn, hn, rfl, (fieldValue_eq_append high low).symm,
    validate_append_field bytes high low, validate_append_field bytes high low, by simp [Block.sameErrors], ?count, ?last⟩
  case count => simp [hcount, Nat.add_assoc]
  case last =>
    rw [List.getLast?_append, hlast, Option.some_or, Block.status_of_completed (b₀ := s.block) rfl rfl]
    simp [Block.sameErrors]

end Sys2Proof.Machine
end

section
/-! SUPPORT. `PUSH` one equation per branch (41_accumulate.md R87, 60_exceptions.md R118), its word, and the illegal words of
its opcode. -/

namespace Sys2Proof

/-- `PUSH b` is the word `0x2000_0000 | b` (R87). -/
theorem encode_push (v : Byte) : encode (.push v) = 0x200000#24 ++ v :=
  BitVec.eq_of_toNat_eq (by simp only [encode, commandWord, BitVec.toNat_append]; simp)

theorem decode_push_of_opField {w : Word} {i : Instr} (h : decode w = .ok i) (hop : opField w = 2#4) :
    ∃ v, i = .push v := by
  obtain ⟨-, hd⟩ := decode_ok_fields h
  obtain ⟨h1, -⟩ | ⟨-, -, hi⟩ | ⟨-, hrest⟩ := decodeOp_ok_cases hd
  · exact absurd (hop.symm.trans h1) (by decide)
  · exact ⟨_, hi⟩
  · simp [hop] at hrest

/-- The legal words of opcode 2 are those of `PUSH`, so the bits above the byte are 0 in each (R58). -/
theorem decode_error_of_push_operand {w : Word} (hop : opField w = 2#4) (hw : w.extractLsb' 8 20 ≠ 0#20) :
    ∃ why, decode w = .error why := by
  cases hd : decode w with
  | error why => exact ⟨why, rfl⟩
  | ok i =>
    obtain ⟨v, rfl⟩ := decode_push_of_opField hd hop
    have hzero : (0x200000#24 ++ v).extractLsb' 8 20 = 0#20 := by
      ext j hj
      simp only [BitVec.getElem_extractLsb', BitVec.getLsbD_append]
      interval_cases j <;> simp
    rw [← encode_of_decode hd, encode_push] at hw
    exact absurd hzero hw

end Sys2Proof

namespace Sys2Proof.Machine

theorem exec_push_of_open {s : State} (hb : s.block.busy = true) (v : Byte) :
    exec (.push v) s = .next (s.effect (s.block.takeByte v)) :=
  if_pos hb

theorem exec_push_of_idle {s : State} (hb : s.block.busy = false) (v : Byte) :
    exec (.push v) s = .next (raiseError .ovr (encode (.push v)) s) :=
  if_neg (Bool.eq_false_iff.mp hb)

theorem Block.takeByte_of_data {b : Block} (h : b.cnt.toNat + 2 < b.len.toNat) (v : Byte) :
    b.takeByte v = b.takeData v :=
  if_pos (decide_eq_true h)

theorem Block.takeByte_of_high {b : Block} (h : b.cnt.toNat + 2 = b.len.toNat) (v : Byte) :
    b.takeByte v = b.takeHigh v := by
  obtain ⟨hpos, -⟩ | ⟨-, ht⟩ | ⟨hpos, -⟩ := b.takeByte_cases v
  · omega
  · exact ht
  · omega

theorem Block.takeByte_of_low {b : Block} (h : b.len.toNat < b.cnt.toNat + 2) (v : Byte) :
    b.takeByte v = b.takeLow v := by
  obtain ⟨hpos, -⟩ | ⟨hpos, -⟩ | ⟨-, ht⟩ := b.takeByte_cases v
  · omega
  · omega
  · exact ht

/-- All that the completing byte writes, `MATCH` as the equality of the sum and the whole field (R27, R87). -/
theorem Block.takeLow_eq (b : Block) (v : Byte) :
    b.takeLow v = { b with
      chk := b.chk.extractLsb' 8 8 ++ v
      matched := decide (b.acc = b.chk.extractLsb' 8 8 ++ v)
      done := true
      busy := false
      cnt := b.cnt + 1 } := by
  simp [takeLow, withLowByte, beq_eq_decide]

/-- The record of a `PUSH` with no frame open (60_exceptions.md R118, R121): its flag, and code 3 with the word if it is the
first. -/
theorem Block.recordError_ovr (b : Block) (w : Word) :
    b.recordError .ovr w = { b with
      errOvr := true
      ecode := if b.ecode = 0#4 then 3#4 else b.ecode
      errw := if b.ecode = 0#4 then w else b.errw } := by
  simp [Block.recordError_eq, errorCode]

end Sys2Proof.Machine
end

section
/-! SUPPORT. The place in a frame (41_accumulate.md R96): which words keep it, and the count of bytes from `START n` on. -/

namespace Sys2Proof.Machine

theorem isPushWord_iff {w : Word} : isPushWord w = true ↔ ∃ v, decode w = .ok (.push v) := by
  cases hd : decode w with
  | error why => simp [isPushWord, hd]
  | ok i => cases i <;> simp [isPushWord, hd]

theorem Block.phase_of_sameFrame {a b : Block} (h : a.sameFrame b) : a.phase = b.phase := by
  obtain ⟨-, hcnt, hlen, -, hbusy, -, -⟩ := h
  rw [Block.phase, hcnt, hlen, hbusy]
  rfl

/-- The place right after a legal `START n`: the high byte of the field is next for `n = 2`, and a data byte above. -/
theorem Block.openFrame_phase (b : Block) {n : Half} (hn : 2 ≤ n.toNat) :
    (b.openFrame n).phase = if n.toNat = 2 then .chkHi else .data := by
  have hcnt : (b.openFrame n).cnt.toNat = 0 := rfl
  have hlen : (b.openFrame n).len.toNat = n.toNat := rfl
  obtain ⟨hpos, hp⟩ | ⟨hpos, hp⟩ | ⟨hpos, -⟩ :=
    Block.phase_of_busy (b := b.openFrame n) rfl (hcnt.trans_lt (Nat.zero_lt_two.trans_le hn))
  · rw [hp, if_neg (by omega)]
  · rw [hp, if_pos (by omega)]
  · omega

/-- A word that neither opens nor abandons a frame, R96's "every other word": no `ABORT` and no `START` of a legal length. -/
abbrev neitherOpensNorAbandons (w : Word) : Prop :=
  decode w ≠ .ok .abort ∧ ∀ m : Half, decode w = .ok (.start m) → m.toNat < 2

/-- Of such words only a `PUSH` into an open frame changes anything of the frame. -/
theorem Block.afterWord_sameFrame {b : Block} {w : Word} (hw : neitherOpensNorAbandons w)
    (hpush : isPushWord w = true → b.busy = false) : (b.afterWord w).sameFrame b := by
  obtain ⟨habort, hstart⟩ := hw
  obtain ⟨n, hd, hn, -⟩ | ⟨v, hd, hbusy, -⟩ | ⟨hd, -⟩ | ⟨-, hb⟩ | ⟨c, -, hb⟩ | ⟨i, -, -, -, hb⟩ := b.afterWord_cases w
  · exact absurd (hstart n hd) (Nat.not_lt.mpr hn)
  · exact absurd (hpush (isPushWord_iff.mpr ⟨v, hd⟩)) (by simp [hbusy])
  · exact absurd hd habort
  · exact hb ▸ b.clearErrors_sameFrame
  · exact hb ▸ b.recordError_sameFrame c w
  · simp [Block.sameFrame, hb]

/-- Whether a byte leaves the frame open (R96). -/
theorem Block.takeByte_busy {b : Block} (hb : b.busy = true) (hc : b.cnt.toNat < b.len.toNat) (v : Byte) :
    (b.takeByte v).busy = decide (b.cnt.toNat + 1 < b.len.toNat) := by
  obtain ⟨-, hpos, ht⟩ | ⟨-, hpos, ht⟩ | ⟨-, hpos, ht⟩ := Block.takeByte_of_phase hb hc v <;> simp [ht, hb] <;> omega

/-- Whether a byte completes the frame (R96). -/
theorem Block.takeByte_done {b : Block} (hb : b.busy = true) (hc : b.cnt.toNat < b.len.toNat) (hd : b.done = false)
    (v : Byte) : (b.takeByte v).done = decide (b.cnt.toNat + 1 = b.len.toNat) := by
  obtain ⟨-, hpos, ht⟩ | ⟨-, hpos, ht⟩ | ⟨-, hpos, ht⟩ := Block.takeByte_of_phase hb hc v <;> simp [ht, hd] <;> omega

/-- The place a byte leads to, by the count (R32): with one byte more, the next place is where `CNT + 1` points. -/
theorem Block.takeByte_phase {b : Block} (hb : b.busy = true) (hc : b.cnt.toNat < b.len.toNat) (v : Byte) :
    (b.phase = .data ∧ ((b.takeByte v).phase = .data ∨ (b.takeByte v).phase = .chkHi)) ∨
    (b.phase = .chkHi ∧ (b.takeByte v).phase = .chkLo) ∨
    (b.phase = .chkLo ∧ (b.takeByte v).phase = .idle ∧ (b.takeByte v).done = true) := by
  have hcnt : (b.takeByte v).cnt.toNat = b.cnt.toNat + 1 := by rw [b.takeByte_cnt, Block.cnt_succ_toNat hc]
  have hlen := congrArg BitVec.toNat (b.takeByte_len v)
  have hbusy := Block.takeByte_busy hb hc v
  have hnext (hroom : b.cnt.toNat + 1 < b.len.toNat) :=
    Block.phase_of_busy (b := b.takeByte v) (hbusy.trans (decide_eq_true hroom)) (by omega)
  obtain ⟨hp, hpos, -⟩ | ⟨hp, hpos, -⟩ | ⟨hp, -, ht⟩ := Block.takeByte_of_phase hb hc v
  · refine .inl ⟨hp, ?_⟩
    obtain ⟨-, h⟩ | ⟨-, h⟩ | ⟨h, -⟩ := hnext (by omega)
    · exact .inl h
    · exact .inr h
    · omega
  · refine .inr (.inl ⟨hp, ?_⟩)
    obtain ⟨h, -⟩ | ⟨h, -⟩ | ⟨-, h⟩ := hnext (by omega)
    · omega
    · omega
    · exact h
  · exact .inr (.inr ⟨hp, by rw [ht]; exact ⟨Block.phase_of_idle rfl, rfl⟩⟩)

/-- The frame that `START n` opened, `k` of its bytes taken: open while bytes are missing, complete with the `n`th. -/
abbrev Block.HasTaken (b : Block) (n : Half) (k : Nat) : Prop :=
  b.len = n ∧ b.cnt.toNat = k ∧ b.busy = decide (k < n.toNat) ∧ b.done = decide (k = n.toNat)

theorem Block.openFrame_hasTaken (b : Block) {n : Half} (hn : 2 ≤ n.toNat) : (b.openFrame n).HasTaken n 0 := by
  have hpos : 0 < n.toNat := Nat.zero_lt_two.trans_le hn
  simp [Block.HasTaken, hpos, hpos.ne]

theorem Block.HasTaken.of_sameFrame {a b : Block} {n : Half} {k : Nat} (h : b.HasTaken n k) (hs : a.sameFrame b) :
    a.HasTaken n k := by
  obtain ⟨-, hcnt, hlen, -, hbusy, hdone, -⟩ := hs
  simpa only [Block.HasTaken, hcnt, hlen, hbusy, hdone] using h

theorem Block.HasTaken.takeByte {b : Block} {n : Half} {k : Nat} (h : b.HasTaken n k) (hk : k < n.toNat) (v : Byte) :
    (b.takeByte v).HasTaken n (k + 1) := by
  obtain ⟨rfl, rfl, hbusy, hdone⟩ := h
  replace hbusy := hbusy.trans (decide_eq_true hk)
  replace hdone := hdone.trans (decide_eq_false hk.ne)
  exact ⟨b.takeByte_len v, by rw [b.takeByte_cnt, Block.cnt_succ_toNat hk], Block.takeByte_busy hbusy hk v,
    Block.takeByte_done hbusy hk hdone v⟩

/-- A `PUSH` adds one byte while the frame has room for it, and every other word leaves the count. -/
theorem Block.HasTaken.afterWord {b : Block} {n : Half} {k : Nat} (h : b.HasTaken n k) {w : Word}
    (hw : neitherOpensNorAbandons w) (hk : k + (if isPushWord w then 1 else 0) ≤ n.toNat) :
    (b.afterWord w).HasTaken n (k + if isPushWord w then 1 else 0) := by
  cases hp : isPushWord w with
  | false => exact h.of_sameFrame (Block.afterWord_sameFrame hw (by simp [hp]))
  | true =>
    have hroom : k < n.toNat := by simpa [hp] using hk
    have ⟨_, _, hbusy, _⟩ := h
    obtain ⟨v, hd⟩ := isPushWord_iff.mp hp
    rw [Block.afterWord_ok hd, Block.afterInstr_push_of_busy (hbusy.trans (decide_eq_true hroom))]
    exact h.takeByte hroom v

/-- The induction of R96 over the words after `START n`: the count is the number of `PUSH` words among them. -/
theorem Block.HasTaken.afterWords {n : Half} (ws : List Word) {b : Block} {k : Nat} (h : b.HasTaken n k)
    (hws : ∀ w ∈ ws, neitherOpensNorAbandons w) (hk : k + ws.countP isPushWord ≤ n.toNat) :
    (ws.foldl Block.afterWord b).HasTaken n (k + ws.countP isPushWord) := by
  induction ws generalizing b k with
  | nil => exact h
  | cons w ws ih =>
    obtain ⟨hw, hws⟩ := List.forall_mem_cons.mp hws
    rw [List.countP_cons, Nat.add_comm (ws.countP _), ← Nat.add_assoc] at hk ⊢
    exact ih (h.afterWord hw ((Nat.le_add_right _ _).trans hk)) hws hk

end Sys2Proof.Machine
end

section
/-! PROOFS. The statements of 41_accumulate.md about `PUSH` and the order of a frame. -/

namespace Sys2Proof.Machine

/-- Settles O32: a byte moves the phase by `Block.takeByte_phase`, every other word keeps it by `Block.afterWord_sameFrame`,
and the count from `START n` on is `Block.HasTaken`. -/
theorem phasesFollowTheFrame : Obligations.PhasesFollowTheFrame := by
  refine ⟨fun n s hn => ?start, fun v s hinv hb => ?push, fun s => ⟨_, exec_abort s, Block.phase_of_idle rfl⟩,
    fun s rest h => ⟨_, step_reset h, Block.phase_of_idle rfl⟩, fun s w rest h habort hstart hpush => ?other,
    fun n s words rest hn hr hi hwords hk => ?run⟩
  case start => exact ⟨_, exec_start_of_legal hn s, rfl, rfl, rfl, s.block.openFrame_phase hn⟩
  case push =>
    have hc := hinv.cnt_lt_len hb
    refine ⟨_, exec_push_of_open hb v, ?_, s.block.takeByte_len v, Block.takeByte_busy hb hc v, ?_⟩
    · rw [State.effect_block, Block.takeByte_cnt, Block.cnt_succ_toNat hc]
    · obtain ⟨hp, h⟩ | ⟨hp, h⟩ | ⟨hp, h⟩ := Block.takeByte_phase hb hc v <;> simp [hp, h]
  case other =>
    exact ⟨_, step_accepts_eq h, Block.phase_of_sameFrame (Block.afterWord_sameFrame ⟨habort, hstart⟩ hpush)⟩
  case run =>
    have hrun := run_words (encode (.start n) :: words) hr hi
    have htaken := (s.block.openFrame_hasTaken hn).afterWords words hwords (by simpa using hk)
    rw [List.foldl_cons, Block.afterWord_encode, Block.afterInstr_start hn] at hrun
    rw [Nat.zero_add] at htaken
    exact ⟨_, hrun, rfl, htaken⟩

/-- Settles O14: with a frame open the byte's place is one of `Block.takeByte_of_data`, `Block.takeByte_of_high` and
`Block.takeByte_of_low`; with none open the record is `Block.recordError_ovr`. -/
theorem pushTakesByteOrRaisesOvr : Obligations.PushTakesByteOrRaisesOvr := by
  refine ⟨fun v => ?word, fun w => decode_error_of_push_operand, fun v s hb hpos => ?data, fun v s hb hpos => ?high,
    fun v s hb hlen hpos => ?low, fun v s hb => ?idle⟩
  case word => rw [← encode_push, decode_encode]
  case data =>
    rw [exec_push_of_open hb, Block.takeByte_of_data (by omega)]
    rfl
  case high =>
    rw [exec_push_of_open hb, Block.takeByte_of_high (by omega)]
    rfl
  case low =>
    rw [exec_push_of_open hb, Block.takeByte_of_low (by omega), Block.takeLow_eq]
    rfl
  case idle =>
    rw [exec_push_of_idle hb, raiseError, Block.recordError_ovr, encode_push]
    rfl

end Sys2Proof.Machine
end

section
/-! SUPPORT. The response to a word by what it decodes to, the commands that write nothing, and zero extension as 16 zero
bits above a value (42_readback.md R100). -/

namespace Sys2Proof.Machine

theorem Block.responseToWord_ok {w : Word} {i : Instr} (h : decode w = .ok i) (b : Block) :
    b.responseToWord w = b.responseToInstr i := by
  simp [Block.responseToWord, h]

theorem Block.responseToWord_error {w : Word} {why : Illegal} (h : decode w = .error why) (b : Block) :
    b.responseToWord w = (b.afterWord w).status := by
  simp [Block.responseToWord, Block.afterWord, h]

theorem Block.afterWord_of_leavesFrame {w : Word} {i : Instr} (h : decode w = .ok i) (hi : i ≠ .clrerr)
    (hl : leavesFrame i = true) (b : Block) : b.afterWord w = b :=
  (Block.afterWord_ok h b).trans (Block.afterInstr_of_leavesFrame hi hl b)

/-- `NOP` and the reads only respond. -/
theorem exec_of_leavesFrame {i : Instr} (hi : i ≠ .clrerr) (hl : leavesFrame i = true) (s : State) :
    exec i s = .next (s.respond (s.block.responseToInstr i)) := by
  rw [exec_eq, Block.afterInstr_of_leavesFrame hi hl]
  rfl

theorem setWidth_eq_zero_append (v : Half) : v.setWidth 32 = 0#16 ++ v :=
  BitVec.setWidth_eq_append (by decide)

/-- A read of a 16-bit element responds with it under 16 zero bits (R102 to R105). -/
theorem exec_of_reads_half {i : Instr} (hi : i ≠ .clrerr) (hl : leavesFrame i = true) {s : State} {v : Half}
    (hv : s.block.responseToInstr i = v.setWidth 32) : exec i s = .next (s.respond (0#16 ++ v)) := by
  rw [exec_of_leavesFrame hi hl, hv, setWidth_eq_zero_append]

end Sys2Proof.Machine
end

section
/-! PROOFS. The statements of 42_readback.md. -/

namespace Sys2Proof.Machine

/-- Settles O11: a step is `step_accepts_eq`; the response to an illegal word is `Block.responseToWord_error`, that to a
legal one `Block.responseToWord_ok` at its command; a read leaves the block by `Block.afterWord_of_leavesFrame`. -/
theorem responseRule : Obligations.ResponseRule := by
  intro s w rest h
  refine ⟨_, step_accepts_eq h, ?response, ?block⟩
  case response =>
    cases hd : decode w with
    | error why => simp only [Block.responseToWord_error hd]
    | ok i =>
      rw [Block.responseToWord_ok hd, Block.afterWord_ok hd]
      cases i <;> rfl
  case block =>
    rintro (hd | hd | hd | hd | hd | hd) <;> exact Block.afterWord_of_leavesFrame hd nofun rfl _

/-- Settles O15: a read only responds (`exec_of_leavesFrame`), a 16-bit element under zero bits (`exec_of_reads_half`). -/
theorem readsRespondAndWriteNothing : Obligations.ReadsRespondAndWriteNothing :=
  ⟨⟨decode_encode .rdstat, exec_of_leavesFrame nofun rfl⟩,
    ⟨decode_encode .rdacc, fun _ => exec_of_reads_half (i := .rdacc) nofun rfl rfl⟩,
    ⟨decode_encode .rdchk, fun _ => exec_of_reads_half (i := .rdchk) nofun rfl rfl⟩,
    ⟨decode_encode .rdcnt, fun _ => exec_of_reads_half (i := .rdcnt) nofun rfl rfl⟩,
    ⟨decode_encode .rdlen, fun _ => exec_of_reads_half (i := .rdlen) nofun rfl rfl⟩,
    ⟨decode_encode .rderrw, exec_of_leavesFrame nofun rfl⟩⟩

end Sys2Proof.Machine
end

section
/-! PROOFS. The statements of 43_maintenance.md. -/

namespace Sys2Proof.Machine

/-- The effect of `CLRERR` is the clearing of the error state (R111). -/
theorem exec_clrerr (s : State) : exec .clrerr s = .next (s.effect s.block.clearErrors) := rfl

/-- Settles O16: `NOP` only responds (`exec_of_leavesFrame`), and a word of opcode 0 that is not `NOP`'s falls under
`decode_error_of_ne_commandWord`. -/
theorem nopOnlyRespondsStatus : Obligations.NopOnlyRespondsStatus := by
  refine ⟨decode_encode .nop, exec_of_leavesFrame nofun rfl, fun w hop hw => ?illegal⟩
  case illegal =>
    have hfield : opField w = 0#4 := hop
    exact decode_error_of_ne_commandWord (by simp [hfield]) (by simp [hfield]) (hfield ▸ hw)

/-- Settles O17: `Block.clearErrors` writes the five elements of the error state (`exec_clrerr`). -/
theorem clrerrClearsTheErrorState : Obligations.ClrerrClearsTheErrorState :=
  ⟨decode_encode .clrerr, exec_clrerr⟩

end Sys2Proof.Machine
end

section
/-! SUPPORT. What an error does (60_exceptions.md R121 to R123, R127): the outcome of a word that raises one, the code and
the flags one word leaves of a block with no error recorded, and a word's effect on the frame without the error state. -/

namespace Sys2Proof.Machine

/-- A word that raises an error, whatever the cause, records it with the word itself and does nothing else (R121, R122). -/
theorem acceptWord_of_error {w : Word} {s : State} {c : ErrorCause} (he : errorOf w s.block = some c) :
    acceptWord w s = .next (raiseError c w s) := by
  cases c with
  | ill =>
    obtain ⟨why, hd⟩ := errorOf_eq_ill.mp he
    exact acceptWord_error hd s
  | len =>
    obtain ⟨n, hn, hd⟩ := errorOf_eq_len.mp he
    rw [acceptWord_ok hd, exec_start_of_short hn, encode_of_decode hd]
  | ovr =>
    obtain ⟨hb, v, hd⟩ := errorOf_eq_ovr.mp he
    rw [acceptWord_ok hd, exec_push_of_idle hb, encode_of_decode hd]

/-- The record of an illegal word (R116, R121): its flag, and code 1 with the word if it is the first. -/
theorem Block.recordError_ill (b : Block) (w : Word) :
    b.recordError .ill w = { b with
      errIll := true
      ecode := if b.ecode = 0#4 then 1#4 else b.ecode
      errw := if b.ecode = 0#4 then w else b.errw } := by
  simp [Block.recordError_eq, errorCode]

/-! ### One error per word -/

/-- The code and the flags `ERR_ILL`, `ERR_LEN`, `ERR_OVR` of one error alone, or of none. -/
def soleError : Option ErrorCause → BitVec 4 × Bool × Bool × Bool
  | none => (0#4, false, false, false)
  | some c => (errorCode c, decide (c = .ill), decide (c = .len), decide (c = .ovr))

/-- With no error recorded, a word leaves the code and the flags of the one error it raises, or of none (R123). -/
theorem Block.afterWord_soleError {b : Block} (hb : b.sameErrors Block.reset) (w : Word) :
    ((b.afterWord w).ecode, (b.afterWord w).errIll, (b.afterWord w).errLen, (b.afterWord w).errOvr) =
      soleError (errorOf w b) := by
  obtain ⟨hill, hlen, hovr, hecode, -⟩ := hb
  by_cases hw : decode w = .ok .clrerr
  · simp [Block.afterWord_ok hw, Block.afterInstr, errorOf, hw, soleError]
  · obtain ⟨c, he, hrec⟩ | ⟨he, hill', hlen', hovr', hecode', -⟩ := b.afterWord_errors hw
    · simp [he, hrec, soleError, Block.recordError_eq, hill, hlen, hovr, hecode]
    · simp [he, soleError, hill', hlen', hovr', hecode', hill, hlen, hovr, hecode]

/-! ### The frame without the error state -/

/-- Clearing the error state leaves of a block exactly its frame. -/
theorem Block.sameFrame_iff_clearErrors_eq {a b : Block} : a.sameFrame b ↔ a.clearErrors = b.clearErrors := by
  simp [Block.sameFrame, Block.clearErrors]

theorem Block.recordError_clearErrors (b : Block) (c : ErrorCause) (w : Word) :
    (b.recordError c w).clearErrors = b.clearErrors :=
  Block.sameFrame_iff_clearErrors_eq.mp (b.recordError_sameFrame c w)

theorem Block.openFrame_clearErrors (b : Block) (n : Half) : (b.openFrame n).clearErrors = b.clearErrors.openFrame n := rfl

theorem Block.takeByte_clearErrors (b : Block) (v : Byte) : (b.takeByte v).clearErrors = b.clearErrors.takeByte v := by
  simp only [Block.takeByte, apply_ite Block.clearErrors]
  rfl

/-- What a word does to the frame is decided by the word and the frame: the errors recorded before do not enter (R127). -/
theorem Block.afterWord_clearErrors (b : Block) (w : Word) :
    (b.afterWord w).clearErrors = (b.clearErrors.afterWord w).clearErrors := by
  cases hd : decode w with
  | error why => simp [Block.afterWord_error hd, Block.recordError_clearErrors]
  | ok i =>
    rw [Block.afterWord_ok hd, Block.afterWord_ok hd]
    cases i with
    | start n =>
      cases hn : lengthLegal n <;>
        simp [Block.afterInstr, hn, Block.recordError_clearErrors, Block.openFrame_clearErrors]
    | push v =>
      cases hb : b.busy <;>
        simp [Block.afterInstr, hb, Block.recordError_clearErrors, Block.takeByte_clearErrors]
    | abort | clrerr | nop | rdstat | rdacc | rdchk | rdcnt | rdlen | rderrw => rfl

theorem Block.sameFrame.afterWord {a b : Block} (h : a.sameFrame b) (w : Word) :
    (a.afterWord w).sameFrame (b.afterWord w) := by
  rw [Block.sameFrame_iff_clearErrors_eq] at h ⊢
  rw [a.afterWord_clearErrors, b.afterWord_clearErrors, h]

end Sys2Proof.Machine
end

section
/-! PROOFS. The statements of 60_exceptions.md about the errors. -/

namespace Sys2Proof.Machine

/-- Settles O18: the four kinds are among the illegal words of O5, and their record is `Block.recordError_ill`. -/
theorem illegalWordRaisesIll : Obligations.IllegalWordRaisesIll := by
  intro s w rest h hkind
  have hill : ∃ why, decode w = .error why := by
    rw [illegalWordsAreTheListedOnes w]
    obtain hop | hrsv | hpush | ⟨hstart, hpush, himm⟩ := hkind
    · exact .inr (.inl hop)
    · exact .inl hrsv
    · exact .inr (.inr (.inl hpush))
    · by_cases hop : (w.extractLsb' 28 4).toNat ≤ 10
      · exact .inr (.inr (.inr ⟨hstart, hpush, hop, himm⟩))
      · exact .inr (.inl (Nat.not_le.mp hop))
  obtain ⟨why, hd⟩ := hill
  rw [step_command h, acceptWord_error hd, raiseError, Block.recordError_ill]
  rfl

/-- Settles O19: every cause has the outcome `acceptWord_of_error`, and `Block.recordError_eq` says all it writes. -/
theorem errorsAreRecordedPrecisely : Obligations.ErrorsAreRecordedPrecisely := by
  intro s w rest c h he
  rw [step_command h, acceptWord_of_error (s := { s with inputs := rest }) he, raiseError, Block.recordError_eq]
  rfl

/-- Settles O20: the step leaves the code and flags of `errorOf` alone (`Block.afterWord_soleError`), which checks the
decoding first, then the command's own state. -/
theorem oneErrorByPriority : Obligations.OneErrorByPriority := by
  refine ⟨fun s w rest h hnone => ⟨_, step_accepts_eq h, (Block.afterWord_soleError hnone w).trans ?_⟩,
    ⟨_, rfl⟩, ⟨_, rfl⟩⟩
  cases hd : decode w with
  | error why => simp [errorOf, hd, soleError, errorCode]
  | ok i =>
    cases i with
    | start n =>
      by_cases hn : 2 ≤ n.toNat
      · simp [errorOf, hd, lengthLegal, hn, Nat.not_lt.mpr hn, soleError]
      · simp [errorOf, hd, lengthLegal, hn, Nat.not_le.mp hn, soleError, errorCode]
    | push v => cases hb : s.block.busy <;> simp [errorOf, hd, hb, soleError, errorCode]
    | abort | clrerr | nop | rdstat | rdacc | rdchk | rdcnt | rdlen | rderrw => simp [errorOf, hd, soleError]

/-- Settles O21: a further error is O19 with a code that is not 0, and the frame after a word is decided by the frame before
(`Block.sameFrame.afterWord`). -/
theorem errorsAccumulateAndBlockNothing : Obligations.ErrorsAccumulateAndBlockNothing :=
  ⟨fun s w rest c h he hrecorded =>
      ⟨_, errorsAreRecordedPrecisely s w rest c h he, rfl, rfl, rfl, if_neg hrecorded, if_neg hrecorded⟩,
    fun _ _ w _ _ h₁ h₂ hframe => ⟨_, _, step_accepts_eq h₁, step_accepts_eq h₂, hframe.afterWord w⟩⟩

/-- Settles O24: the byte is the low half of the field, so the frame completes by `Block.takeLow_eq`, and no byte touches
the error state (`Block.takeByte_sameErrors`). -/
theorem mismatchIsNoError : Obligations.MismatchIsNoError := by
  intro v s hb hlast hne
  have hlow : s.block.takeByte v = s.block.takeLow v := Block.takeByte_of_low (by omega) v
  have hmatched : (s.block.takeByte v).matched = false := by
    rw [hlow, Block.takeLow_eq]
    exact decide_eq_false hne
  refine ⟨_, exec_push_of_open hb v, ?done, hmatched, ?ok, s.block.takeByte_sameErrors v⟩
  case done =>
    rw [State.effect_block, hlow]
    rfl
  case ok => simp [Block.okOut, hmatched]

end Sys2Proof.Machine
end

section
/-! PROOFS. The statement of 70_reset_and_hazards.md about the reset event. -/

namespace Sys2Proof.Machine

/-- Settles O34: `step_reset` gives the step, and the block it leaves has the views of O33. -/
theorem resetEventFromAnyState : Obligations.ResetEventFromAnyState := by
  intro s rest h
  obtain ⟨-, -, -, -, -, -, -, -, -, -, -, -, hviews⟩ := resetValues
  exact ⟨_, step_reset h, rfl, rfl, rfl, rfl, rfl, hviews⟩

end Sys2Proof.Machine
end

section
/-! SUPPORT. Facts the remaining statements of 30_encoding.md and 10_state.md ask for: the check on commands refuses none, a
`PUSH` word by its operand field, and the word the host places at the port. -/

namespace Sys2Proof

/-- An `Instr` holds its operand at the width of its field, so the check of R58 refuses no command. -/
theorem Instr.wellFormed_eq_true (i : Instr) : i.wellFormed = true := by
  cases i with
  | start n => exact decide_eq_true (Nat.le_of_lt_succ n.isLt)
  | push v => exact decide_eq_true v.isLt
  | nop | abort | clrerr | rdstat | rdacc | rdchk | rdcnt | rdlen | rderrw => rfl

/-- The opcode of `PUSH` with any operand field: its low byte is the byte, and its high byte must be 0 (R58). -/
theorem decodeOp_push (imm : Half) :
    decodeOp 2#4 imm = if immHigh imm = 0 then .ok (.push (immByte imm)) else .error .unusedOperandBits := rfl

theorem commandWord_push (imm : Half) : commandWord 2#4 imm = 0x2000#16 ++ imm := rfl

/-- The other opcodes take no operand: a command word of theirs with one is illegal (R58, R60). -/
theorem decode_error_of_operand {op : BitVec 4} {imm : Half} (hstart : op ≠ 1#4) (hpush : op ≠ 2#4) (himm : imm ≠ 0#16) :
    ∃ why, decode (commandWord op imm) = .error why := by
  rw [decode_commandWord, decodeOp_error_iff]
  by_cases hop : op.toNat ≤ 10
  · exact .inr (.inr ⟨hstart, hpush, hop, himm⟩)
  · exact .inl (Nat.not_le.mp hop)

/-- A table word as wide as the port is the word itself. -/
theorem tableWord_toNat (w : Word) : tableWord 32 w.toNat = w := by
  rw [tableWord, Nat.mod_eq_of_lt w.isLt, BitVec.ofNat_toNat, BitVec.setWidth_eq]

end Sys2Proof

namespace Sys2Proof.Machine

/-- The word that `withFetchWord` places is the next input, before those that were there (log 2). -/
theorem State.accepts_withFetchWord {s : State} (hr : s.wasReset = true) (w : Word) :
    (s.withFetchWord 32 w.toNat).accepts w s.inputs :=
  ⟨hr, by rw [State.withFetchWord, State.offer_inputs, tableWord_toNat]⟩

end Sys2Proof.Machine
end

section
/-! PROOFS. The statements of 30_encoding.md about the commands' words and operands, and of the step that takes one. -/

namespace Sys2Proof.Machine

/-- Settles O2: `decode_encode`, and no command is refused by its check. -/
theorem decodeOfEncodeIsTheCommand : Obligations.DecodeOfEncodeIsTheCommand :=
  fun i => ⟨i.wellFormed_eq_true, decode_encode i⟩

/-- Settles O3: a decoded word is put together from the fields its command fixes (`encode_of_decode`). -/
theorem encodeOfDecodeIsTheWord : Obligations.EncodeOfDecodeIsTheWord :=
  fun _ _ => encode_of_decode

/-- Settles O6: the words are `commandWord` of an opcode and an operand field, so `decode` is `decodeOp` of the two; a short
`START` records its error when it executes (`exec_start_of_short`). -/
theorem operandsAreTakenAsTheyStand : Obligations.OperandsAreTakenAsTheyStand := by
  refine ⟨fun imm => ?start, fun imm s hshort => ?short, fun imm hhigh => ?push, fun imm hhigh => ?illegal,
    fun op imm => decode_error_of_operand⟩
  case start => rw [← encode_start, decode_encode]
  case short => exact ⟨_, exec_start_of_short hshort s, by simp [raiseError, Block.recordError_len]⟩
  case push =>
    rw [← commandWord_push, decode_commandWord, decodeOp_push]
    exact if_pos hhigh
  case illegal =>
    rw [← commandWord_push, decode_commandWord, decodeOp_push]
    exact ⟨_, if_neg hhigh⟩

/-- Settles O1: the eleven legal words are those of their commands (`decode_encode`), and the four others are refused by the
first check they fail. -/
theorem wordsOfTheSpecDecode : Obligations.WordsOfTheSpecDecode :=
  ⟨decode_encode .nop, decode_encode (.start 79#16), decode_encode (.push 0x46#8), decode_encode .abort,
    decode_encode .clrerr, decode_encode .rdstat, decode_encode .rdacc, decode_encode .rdchk, decode_encode .rdcnt,
    decode_encode .rdlen, decode_encode .rderrw, rfl, rfl, rfl, rfl⟩

/-- Settles O7: the step accepts the word (`step_command`), and a word that decodes runs its command. -/
theorem stepRunsTheDecodedCommand : Obligations.StepRunsTheDecodedCommand :=
  fun _ _ _ _ h hd => (step_command h).trans (acceptWord_ok hd _)

/-- Settles O8: the placed word is the next input (`State.accepts_withFetchWord`), and taking it leaves the others. -/
theorem fetchWordIsTakenNext : Obligations.FetchWordIsTakenNext := by
  intro s w hr
  rw [step_command (State.accepts_withFetchWord hr w)]
  cases hd : decode w with
  | ok i => exact acceptWord_ok hd s
  | error why => exact acceptWord_error hd s

/-- Settles O10: `exec_eq` says all that a command does beside the block. -/
theorem everyCommandCompletesWithOneResponse : Obligations.EveryCommandCompletesWithOneResponse :=
  fun i s => ⟨_, s.block.responseToInstr i, exec_eq i s, rfl, rfl, rfl, rfl⟩

/-- Settles O53: outside R34.1 the count is past the place of the high byte, so `Block.takeByte_of_low` gives the last branch
and `Block.takeLow_eq` what it writes. -/
theorem pushOutsideTheFrameInvariant : Obligations.PushOutsideTheFrameInvariant := by
  intro v s hb hout
  have hpos : s.block.len.toNat < s.block.cnt.toNat + 2 := by omega
  rw [exec_push_of_open hb, Block.takeByte_of_low hpos, Block.takeLow_eq]
  rfl

end Sys2Proof.Machine
end

section
/-! SUPPORT. What every step keeps (10_state.md R34): a property that reset has and every accepted word keeps; and the record
of an error with the word that raised it (R30, R115). -/

namespace Sys2Proof.Machine

/-- A property of the block that holds after reset and that every word keeps is kept by every step, from the first reset on:
every other step leaves the block or resets it. -/
theorem step_keeps {P : Block → Prop} (hreset : P Block.reset) (hword : ∀ b w, P b → P (b.afterWord w)) {s t : State}
    (hs : s.wasReset = true → P s.block) (h : step s = .next t) : t.wasReset = true → P t.block := by
  obtain ⟨-, rfl⟩ | ⟨w, rest, hw, hnext⟩ | ⟨rest, -, rfl⟩ | ⟨w, rest, -, rfl⟩ := step_next_cases h
  · exact hs
  · obtain ⟨hr, -⟩ := hw
    rw [acceptWord_eq] at hnext
    cases hnext
    exact fun _ => hword _ w (hs hr)
  · exact fun _ => hreset
  · exact fun _ => hreset

theorem errorRecordExplained_of_sameErrors {a b : Block} (h : errorRecordExplained b) (hs : a.sameErrors b) :
    errorRecordExplained a := by
  obtain ⟨-, -, -, hecode, herrw⟩ := hs
  simpa only [errorRecordExplained, hecode, herrw] using h

/-- The first error is recorded with the word that raises it; a later one leaves the record. -/
theorem errorRecordExplained_recordError {b : Block} {c : ErrorCause} {w : Word} (h : errorRecordExplained b)
    (he : errorOf w b = some c) : errorRecordExplained (b.recordError c w) := by
  by_cases h0 : b.ecode = 0#4
  · have hcode : (b.recordError c w).ecode = errorCode c := by simp [Block.recordError_eq, h0]
    have hword : (b.recordError c w).errw = w := by simp [Block.recordError_eq, h0]
    rw [errorRecordExplained, hcode, hword]
    cases c with
    | ill => exact .inr (.inl ⟨rfl, errorOf_eq_ill.mp he⟩)
    | len => exact .inr (.inr (.inl ⟨rfl, errorOf_eq_len.mp he⟩))
    | ovr =>
      obtain ⟨-, hpush⟩ := errorOf_eq_ovr.mp he
      exact .inr (.inr (.inr ⟨rfl, hpush⟩))
  · simpa [errorRecordExplained, Block.recordError_eq, h0] using h

theorem errorRecordExplained_afterWord (b : Block) (w : Word) (h : errorRecordExplained b) :
    errorRecordExplained (b.afterWord w) := by
  by_cases hw : decode w = .ok .clrerr
  · rw [Block.afterWord_ok hw]
    exact .inl ⟨rfl, rfl⟩
  · obtain ⟨c, he, hb⟩ | ⟨-, hs⟩ := b.afterWord_errors hw
    · exact hb ▸ errorRecordExplained_recordError h he
    · exact errorRecordExplained_of_sameErrors h hs

/-- The word 0 is `NOP`'s and raises no error, so a recorded word that raises one is not 0 (R30, R106). -/
theorem errw_eq_zero_iff {b : Block} (h : errorRecordExplained b) : b.errw = 0#32 ↔ b.ecode = 0#4 := by
  have hnop : decode 0#32 = .ok .nop := decode_encode .nop
  obtain ⟨hcode, hword⟩ | ⟨hcode, why, hd⟩ | ⟨hcode, n, -, hd⟩ | ⟨hcode, v, hd⟩ := h
  · exact iff_of_true hword hcode
  all_goals
    refine iff_of_false (fun hzero => ?_) (by simp [hcode])
    rw [hzero, hnop] at hd
    cases hd

end Sys2Proof.Machine
end

section
/-! PROOFS. The statements of 10_state.md about what every step keeps. -/

namespace Sys2Proof.Machine

/-- Settles O37: the reset block is evaluated, and no frame is open in it. -/
theorem resetMeetsTheInvariants : Obligations.ResetMeetsTheInvariants :=
  ⟨fun _ => Block.reset_inv, Block.reset_tracks []⟩

/-- Settles O38: the invariants hold after reset and every word keeps them (`Block.afterWord_inv`). -/
theorem stepKeepsTheInvariants : Obligations.StepKeepsTheInvariants :=
  fun _ _ hs h => step_keeps Block.reset_inv (fun _ w hb => Block.afterWord_inv hb w) hs h

/-- Settles O39: the step leaves the block after its input (`step_input`), which tracks the bytes after that input. -/
theorem stepKeepsFrameContents : Obligations.StepKeepsFrameContents := by
  intro s t e rest f hr hi hinv htracks h
  obtain ⟨u, hstep, -, -, hu⟩ := step_input hr hi
  rw [h] at hstep
  cases hstep
  exact hu ▸ Block.afterInput_tracks hinv htracks e

/-- Settles O23: after reset nothing is recorded, every word keeps the record explained, and the word 0 raises no error. -/
theorem errorRecordStaysExplained : Obligations.ErrorRecordStaysExplained :=
  ⟨.inl ⟨rfl, rfl⟩, fun _ _ hs h => step_keeps (.inl ⟨rfl, rfl⟩) errorRecordExplained_afterWord hs h,
    fun _ => errw_eq_zero_iff⟩

end Sys2Proof.Machine
end

section
/-! SUPPORT. Words between the bytes of a frame (70_reset_and_hazards.md R145, R148), and how many responses a sequence of
inputs has (R141, R150). -/

namespace Sys2Proof.Machine

/-- Reads, `NOP` and `CLRERR` are none of the words that open, feed or abandon a frame. -/
theorem leavesFrame_word {w : Word} {i : Instr} (hd : decode w = .ok i) (hl : leavesFrame i = true) :
    neitherOpensNorAbandons w ∧ isPushWord w = false := by
  cases i with
  | start _ | push _ | abort => cases hl
  | nop | clrerr | rdstat | rdacc | rdchk | rdcnt | rdlen | rderrw => simp [neitherOpensNorAbandons, isPushWord, hd]

/-- An open frame has taken `CNT` of its `LEN` bytes. -/
theorem Block.FrameInv.hasTaken {b : Block} (h : b.FrameInv) (hb : b.busy = true) : b.HasTaken b.len b.cnt.toNat := by
  have hc := h.cnt_lt_len hb
  simp [Block.HasTaken, hb, h.done_eq_false hb, hc, hc.ne]

/-- The responses from `s` to `t` are one for each of the commands that reset does not overlap, and at most one for each that
it does (R141). -/
abbrev responsesCounted (s t : State) (es : List Input) : Prop :=
  s.responses.length + (countCommands es).1 ≤ t.responses.length ∧
  t.responses.length ≤ s.responses.length + (countCommands es).1 + (countCommands es).2

theorem responsesCounted.cons {s t u : State} {e : Input} {es : List Input} (h : responsesCounted s t [e])
    (hes : responsesCounted t u es) : responsesCounted s u (e :: es) := by
  cases e <;> simp only [responsesCounted, countCommands] at * <;> omega

/-- One step after the first reset takes the next input, with its response if it has one. -/
theorem step_responsesCounted {s : State} {e : Input} {rest : List Input} (hr : s.wasReset = true)
    (hi : s.inputs = e :: rest) :
    ∃ t, step s = .next t ∧ t.wasReset = true ∧ t.inputs = rest ∧ responsesCounted s t [e] := by
  cases e with
  | command w => exact ⟨_, step_accepts_eq ⟨hr, hi⟩, hr, rfl, by simp [responsesCounted, countCommands]⟩
  | reset => exact ⟨_, step_reset hi, rfl, rfl, by simp [responsesCounted, countCommands]⟩
  | commandCutByReset w =>
    refine ⟨_, step_cut hi, rfl, rfl, ?_⟩
    cases h : Config.overlapResponse s.draws <;> simp [responsesCounted, countCommands, h]

/-- As many steps as there are inputs take them all (log 12). -/
theorem run_responsesCounted (es : List Input) {s : State} (hr : s.wasReset = true) (hi : s.inputs = es) :
    ∃ t, run es.length s = .next t ∧ t.inputs = [] ∧ responsesCounted s t es := by
  induction es generalizing s with
  | nil => exact ⟨s, rfl, hi, by simp [responsesCounted, countCommands]⟩
  | cons e es ih =>
    obtain ⟨u, hstep, hur, hui, hu⟩ := step_responsesCounted hr hi
    obtain ⟨t, hrun, hti, ht⟩ := ih hur hui
    exact ⟨t, (run_succ hstep _).trans hrun, hti, hu.cons ht⟩

end Sys2Proof.Machine
end

section
/-! PROOFS. The statements of 70_reset_and_hazards.md about interleaved commands, waiting, and the order of reset. -/

namespace Sys2Proof.Machine

/-- Settles O31: such a word leaves the frame by `Block.afterWord_sameFrame`, and the phase is a view of the frame. -/
theorem interleavedCommandsKeepTheFrame : Obligations.InterleavedCommandsKeepTheFrame := by
  intro s w rest i h hd hl
  obtain ⟨hw, hpush⟩ := leavesFrame_word hd hl
  have hframe : (s.block.afterWord w).sameFrame s.block := Block.afterWord_sameFrame hw (by simp [hpush])
  exact ⟨_, step_accepts_eq h, hframe, Block.phase_of_sameFrame hframe⟩

/-- Settles O47: the words are taken by `run_words`, the frame stays open by `Block.HasTaken.afterWords`, and a step with
nothing presented changes nothing. -/
theorem incompleteFrameStaysOpen : Obligations.IncompleteFrameStaysOpen := by
  intro s words hr hinv hb hi hwords hk
  have hrun := run_words words hr (rest := []) (by simpa using hi)
  have hothers : ∀ w ∈ words, neitherOpensNorAbandons w := fun w hw =>
    have ⟨habort, hstart⟩ := hwords w hw
    ⟨habort, fun m hm => absurd hm (hstart m)⟩
  obtain ⟨hlen, hcnt, hbusy, -⟩ := (hinv.hasTaken hb).afterWords words hothers hk.le
  exact ⟨_, hrun, hbusy.trans (decide_eq_true hk), hcnt, hlen, run_idle rfl⟩

/-- Settles O48: each step takes one input and counts its response (`step_responsesCounted`), the run all of them. -/
theorem finiteSequenceEnds : Obligations.FiniteSequenceEnds :=
  fun s hr => run_responsesCounted s.inputs hr rfl

/-- Settles O35: `step_cut` for the overlapped command, whose free response is there or absent; `step_accepts_eq` and
`step_reset` in either order for the others, where block and word alone give the response. -/
theorem resetIsOrderedAgainstCommands : Obligations.ResetIsOrderedAgainstCommands := by
  refine ⟨fun s w rest h => ?overlapped, fun s w rest h => ?before, fun s w rest h => ?after⟩
  case overlapped =>
    refine ⟨_, step_cut h, rfl, rfl, ?_⟩
    cases hv : Config.overlapResponse s.draws with
    | none => exact .inl (by simp [hv])
    | some v => exact .inr ⟨v, by simp [hv]⟩
  case before => exact ⟨_, _, step_accepts_eq h, step_reset rfl, rfl, rfl⟩
  case after =>
    exact ⟨_, _, _, step_reset h, step_accepts_eq ⟨rfl, rfl⟩,
      step_accepts_eq (s := State.reset.present (.command w :: rest)) ⟨rfl, rfl⟩, rfl, rfl, rfl⟩

/-- Settles O36: a command before the first reset is `step_refused`, and `step_reset` sets every element of the block. -/
theorem commandBeforeFirstResetIsRefused : Obligations.CommandBeforeFirstResetIsRefused :=
  ⟨fun pre w rest => step_refused (s := (State.powerUp pre).present (.command w :: rest)) rfl rfl,
    fun pre rest => step_reset (s := (State.powerUp pre).present (.reset :: rest)) rfl⟩

end Sys2Proof.Machine
end

section
/-! SUPPORT. The assembler on a mnemonic's line (30_encoding.md R62): the word of an operand in range, and which mnemonics
take none. -/

namespace Sys2Proof.Machine

/-- `START v` is `0x10000000 | v` (R62). -/
theorem encode_start_ofNat {v : Nat} (hv : v ≤ 65535) :
    encode (.start (BitVec.ofNat 16 v)) = 0x10000000#32 ||| BitVec.ofNat 32 v := by
  have hfield : (BitVec.ofNat 16 v).toNat = v := Nat.mod_eq_of_lt (by omega)
  have hword : (BitVec.ofNat 32 v).toNat = v := Nat.mod_eq_of_lt (by omega)
  refine BitVec.eq_of_toNat_eq ?_
  rw [encode_start, BitVec.toNat_append, BitVec.toNat_or, hfield, hword]
  rfl

/-- `PUSH v` is `0x20000000 | v` (R62). -/
theorem encode_push_ofNat {v : Nat} (hv : v ≤ 255) :
    encode (.push (BitVec.ofNat 8 v)) = 0x20000000#32 ||| BitVec.ofNat 32 v := by
  have hfield : (BitVec.ofNat 8 v).toNat = v := Nat.mod_eq_of_lt (by omega)
  have hword : (BitVec.ofNat 32 v).toNat = v := Nat.mod_eq_of_lt (by omega)
  refine BitVec.eq_of_toNat_eq ?_
  rw [encode_push, BitVec.toNat_append, BitVec.toNat_or, hfield, hword]
  rfl

theorem assemble_start {v : Nat} (hv : v ≤ 65535) :
    assemble (.command .start (some v)) = some [encode (.start (BitVec.ofNat 16 v))] :=
  assemble_of_wellFormed (decide_eq_true hv)

theorem assemble_push {v : Nat} (hv : v ≤ 255) :
    assemble (.command .push (some v)) = some [encode (.push (BitVec.ofNat 8 v))] :=
  assemble_of_wellFormed (decide_eq_true (Nat.lt_succ_of_le hv))

theorem assemble_start_of_lt {v : Nat} (hv : 65535 < v) : assemble (.command .start (some v)) = none :=
  assemble_of_not_wellFormed fun h => Nat.not_le.mpr hv (of_decide_eq_true h)

theorem assemble_push_of_lt {v : Nat} (hv : 255 < v) : assemble (.command .push (some v)) = none :=
  assemble_of_not_wellFormed fun h => Nat.not_le.mpr hv (Nat.le_of_lt_succ (of_decide_eq_true h))

/-- Only `START` and `PUSH` take an operand. -/
theorem Mnemonic.operandOk_of_plain {m : Mnemonic} (hstart : m ≠ .start) (hpush : m ≠ .push) (v : Option Nat) :
    m.operandOk v = v.isNone := by
  cases m with
  | start => exact absurd rfl hstart
  | push => exact absurd rfl hpush
  | nop | abort | clrerr | rdstat | rdacc | rdchk | rdcnt | rdlen | rderrw => rfl

theorem assemble_plain {m : Mnemonic} (hstart : m ≠ .start) (hpush : m ≠ .push) :
    assemble (.command m none) = some [encode (commandOf m 0)] :=
  assemble_of_wellFormed (Mnemonic.operandOk_of_plain hstart hpush none)

theorem assemble_plain_operand {m : Mnemonic} (hstart : m ≠ .start) (hpush : m ≠ .push) (v : Nat) :
    assemble (.command m (some v)) = none :=
  assemble_of_not_wellFormed (by simp [SourceLine.wellFormed, Mnemonic.operandOk_of_plain hstart hpush])

/-- The match word of a row is the word of its mnemonic with operand 0 (R56). -/
theorem encode_commandOf_zero : ∀ r ∈ opcodeTable, encode (commandOf r.mnemonic 0) = r.matchBits := by decide

end Sys2Proof.Machine
end

section
/-! PROOFS. The statement of 30_encoding.md about the words of the mnemonics. -/

namespace Sys2Proof.Machine

/-- Settles O49: an operand in range gives the word of its command (`encode_start_ofNat`, `encode_push_ofNat`), the range
check refuses the others, and the match word of a row is that of its mnemonic (`encode_commandOf_zero`). -/
theorem assemblerEncodesOrRefuses : Obligations.AssemblerEncodesOrRefuses := by
  refine ⟨fun v => ?start, fun v => ?push, fun r hr hstart hpush => ?plain, assemble_of_not_wellFormed nofun,
    assemble_of_not_wellFormed nofun⟩
  case start =>
    split_ifs with hv
    · rw [assemble_start hv, encode_start_ofNat hv]
    · exact assemble_start_of_lt (Nat.not_le.mp hv)
  case push =>
    split_ifs with hv
    · rw [assemble_push hv, encode_push_ofNat hv]
    · exact assemble_push_of_lt (Nat.not_le.mp hv)
  case plain =>
    exact ⟨(assemble_plain hstart hpush).trans (by rw [encode_commandOf_zero r hr]),
      assemble_plain_operand hstart hpush⟩

end Sys2Proof.Machine
end

section
/-! SUPPORT. Reading a source line (30_encoding.md R62, log 10): the comment, the white space at the ends, the first part and
the text after it; and the letters of the mnemonics. -/

namespace Sys2Proof.Machine

/-- A character that is part of a word of the line: neither white space nor the start of a comment. -/
abbrev isText (c : Char) : Prop := c ≠ ' ' ∧ c ≠ '\t' ∧ c ≠ ';'

theorem isGap_iff {c : Char} : isGap c = true ↔ c = ' ' ∨ c = '\t' := by simp [isGap]

theorem isGap_of_isText {c : Char} (h : isText c) : isGap c = false := by
  obtain ⟨hspace, htab, -⟩ := h
  simp [isGap, hspace, htab]

theorem ne_semicolon_of_isText {c : Char} (h : isText c) : c ≠ ';' := by
  obtain ⟨-, -, hcomment⟩ := h
  exact hcomment

/-- White space and `;` are their own capitals, so a character whose capital is text is text. -/
theorem isText_of_capital {c : Char} (h : isText (capital c)) : isText c := by
  obtain ⟨hspace, htab, hcomment⟩ := h
  refine ⟨?_, ?_, ?_⟩ <;> rintro rfl
  · exact hspace rfl
  · exact htab rfl
  · exact hcomment rfl

theorem dropComment_append {a : List Char} (ha : ∀ c ∈ a, c ≠ ';') (rest : List Char) :
    dropComment (a ++ rest) = a ++ dropComment rest :=
  List.takeWhile_append_of_pos (by simpa using ha)

/-- The comment is dropped before anything else is read. -/
theorem readLine_congr {a b : List Char} (h : dropComment a = dropComment b) : readLine a = readLine b := by
  rw [readLine, readLine, h]

theorem dropComment_starts_with_gap {rest : List Char} (h : ∀ c ∈ rest.head?, c = ' ' ∨ c = '\t' ∨ c = ';') :
    ∀ c ∈ (dropComment rest).head?, isGap c = true := by
  cases rest with
  | nil => simp [dropComment]
  | cons c rest =>
    obtain rfl | rfl | rfl := h c rfl <;> simp [dropComment, isGap]

theorem trimGaps_eq (cs : List Char) : trimGaps cs = (cs.dropWhile isGap).rdropWhile isGap := rfl

theorem dropWhile_isGap_of_isText {a : List Char} (ha : ∀ c ∈ a, isText c) (hne : a ≠ []) (rest : List Char) :
    (a ++ rest).dropWhile isGap = a ++ rest := by
  obtain ⟨c, cs, rfl⟩ := List.exists_cons_of_ne_nil hne
  exact List.dropWhile_cons_of_neg (by simp [isGap_of_isText (ha c List.mem_cons_self)])

/-- White space after a text is trimmed from what follows the text. -/
theorem rdropWhile_isGap_append {a : List Char} (ha : ∀ c ∈ a, isText c) (rest : List Char) :
    (a ++ rest).rdropWhile isGap = a ++ rest.rdropWhile isGap := by
  induction rest using List.reverseRecOn with
  | nil =>
    have hlast : a.rdropWhile isGap = a :=
      List.rdropWhile_eq_self_iff.mpr fun hne => by simp [isGap_of_isText (ha _ (List.getLast_mem hne))]
    simpa using hlast
  | append_singleton rest c ih =>
    rw [← List.append_assoc, List.rdropWhile_concat, List.rdropWhile_concat, ih]
    split_ifs
    · rfl
    · exact List.append_assoc ..

theorem rdropWhile_starts_with_gap {rest : List Char} (h : ∀ c ∈ rest.head?, isGap c = true) :
    ∀ c ∈ (rest.rdropWhile isGap).head?, isGap c = true := by
  intro c hc
  obtain ⟨cs, hcs⟩ := List.rdropWhile_prefix isGap (l := rest)
  refine h c ?_
  rw [← hcs, List.head?_append, hc]
  rfl

/-- The first part ends where the white space begins. -/
theorem takeWhile_first_part {a rest : List Char} (ha : ∀ c ∈ a, isText c) (h : ∀ c ∈ rest.head?, isGap c = true) :
    (a ++ rest).takeWhile (fun c => !isGap c) = a ∧ (a ++ rest).dropWhile (fun c => !isGap c) = rest := by
  have hpos : ∀ c ∈ a, (!isGap c) = true := fun c hc => by simp [isGap_of_isText (ha c hc)]
  rw [List.takeWhile_append_of_pos hpos, List.dropWhile_append_of_pos hpos]
  cases rest with
  | nil => simp
  | cons c rest => simp [h c rfl]

/-- A line with a first part: white space before it does not matter, its letters are read in capitals, and the text after it
is read without its comment and the white space around it. -/
theorem readLine_of_first_part {gap a rest : List Char} (hgap : ∀ c ∈ gap, c = ' ' ∨ c = '\t')
    (ha : ∀ c ∈ a, isText c) (hne : a ≠ []) (hrest : ∀ c ∈ rest.head?, c = ' ' ∨ c = '\t' ∨ c = ';') :
    readLine (gap ++ a ++ rest) =
      readParts (a.map capital) (trimGaps ((dropComment rest).rdropWhile isGap)) := by
  have hcomment : ∀ c ∈ gap ++ a, c ≠ ';' := by
    intro c hc
    obtain hc | hc := List.mem_append.mp hc
    · obtain rfl | rfl := hgap c hc <;> decide
    · exact ne_semicolon_of_isText (ha c hc)
  have hbody : trimGaps (dropComment (gap ++ a ++ rest)) = a ++ (dropComment rest).rdropWhile isGap := by
    rw [dropComment_append hcomment, trimGaps_eq, List.append_assoc,
      List.dropWhile_append_of_pos fun c hc => isGap_iff.mpr (hgap c hc), dropWhile_isGap_of_isText ha hne,
      rdropWhile_isGap_append ha]
  obtain ⟨hfirst, hafter⟩ :=
    takeWhile_first_part ha (rdropWhile_starts_with_gap (dropComment_starts_with_gap hrest))
  simp only [readLine, hbody, hfirst, hafter]
  simp [hne]

/-! ### The letters of a mnemonic -/

theorem mnemonicText_isText (m : Mnemonic) : ∀ c ∈ mnemonicText m, isText c := by
  cases m <;> simp [mnemonicText, isText]

theorem mnemonicText_ne_nil (m : Mnemonic) : mnemonicText m ≠ [] := by cases m <;> decide

theorem mnemonicText_map_capital (m : Mnemonic) : (mnemonicText m).map capital = mnemonicText m := by cases m <;> decide

theorem find_mnemonicText (m : Mnemonic) : allMnemonics.find? (fun k => mnemonicText k == mnemonicText m) = some m := by
  cases m <;> decide

theorem readParts_mnemonic (m : Mnemonic) : readParts (mnemonicText m) [] = some (.command m none) := by
  simp [readParts, find_mnemonicText]

theorem readParts_mnemonic_operand (m : Mnemonic) {rest : List Char} (h : rest ≠ []) :
    readParts (mnemonicText m) rest = (readLiteral rest).map (fun v => .command m (some v)) := by
  simp [readParts, find_mnemonicText, h]

end Sys2Proof.Machine
end

section
/-! PROOFS. The statement of 30_encoding.md about comments and the case of letters. -/

namespace Sys2Proof.Machine

/-- Settles O50: a comment is dropped before the line is read, and a line with a first part is read by its capitals
(`readLine_of_first_part`). -/
theorem sourceTextCommentsAndCase : Obligations.SourceTextCommentsAndCase := by
  refine ⟨fun cs tail hcs => ?comment, fun m cs hm => ?mnemonic, fun gap a b rest hgap hab htext hrest => ?firstPart⟩
  case comment =>
    have hcomment : ∀ c ∈ cs, c ≠ ';' := fun c hc h => hcs (h ▸ hc)
    have hplain := dropComment_append hcomment []
    rw [List.append_nil] at hplain
    exact readLine_congr ((dropComment_append hcomment (';' :: tail)).trans hplain.symm)
  case mnemonic =>
    have htext : ∀ c ∈ cs, isText c := fun c hc =>
      isText_of_capital (mnemonicText_isText m _ (hm ▸ List.mem_map_of_mem hc))
    have hne : cs ≠ [] := fun h => mnemonicText_ne_nil m (by rw [← hm, h, List.map_nil])
    have hread := readLine_of_first_part (gap := []) (rest := []) nofun htext hne nofun
    rw [List.nil_append, List.append_nil, hm] at hread
    exact hread.trans (readParts_mnemonic m)
  case firstPart =>
    obtain ⟨ha, hb⟩ := List.forall_mem_append.mp htext
    by_cases hne : a = []
    · rw [hne, List.map_nil, eq_comm, List.map_eq_nil_iff] at hab
      rw [hne, hab]
    · have hne' : b ≠ [] := fun h => hne (List.map_eq_nil_iff.mp (hab.trans (by rw [h, List.map_nil])))
      rw [readLine_of_first_part hgap ha hne hrest, readLine_of_first_part hgap hb hne' hrest, hab]

end Sys2Proof.Machine
end

section
/-! SUPPORT. What the disassembler prints (30_encoding.md R63, log 9): the hexadecimal digits of a word are read back as its
value, and a line of a first part, a space and such digits is read as the two. -/

namespace Sys2Proof.Machine

theorem hexDigit_hexChar : ∀ d : BitVec 4, hexDigit (hexChar d) = some d.toNat := by decide

theorem isText_hexChar : ∀ d : BitVec 4, isText (hexChar d) := by decide

theorem length_hexText (n : Nat) (w : Word) : (hexText n w).length = n := by
  induction n with
  | zero => rfl
  | succ n ih => rw [hexText, List.length_cons, ih]

theorem hexText_isText (n : Nat) (w : Word) : ∀ c ∈ hexText n w, isText c := by
  induction n with
  | zero => exact nofun
  | succ n ih => exact List.forall_mem_cons.mpr ⟨isText_hexChar _, ih⟩

theorem readDigits_cons {base : Nat} {digit : Char → Option Nat} {c : Char} {d : Nat} (h : digit c = some d) (acc : Nat)
    (cs : List Char) : readDigits base digit acc (c :: cs) = readDigits base digit (acc * base + d) cs := by
  simp [readDigits, h]

/-- The `n`th group of four bits as a digit in base 16. -/
theorem toNat_hexGroup (n : Nat) (w : Word) : (w.extractLsb' (4 * n) 4).toNat = w.toNat / 16 ^ n % 16 := by
  rw [BitVec.extractLsb'_toNat, Nat.shiftRight_eq_div_pow, Nat.pow_mul]

/-- The lowest `n` digits of a word, after those that gave `acc`. -/
theorem readDigits_hexText (n : Nat) (w : Word) (acc : Nat) :
    readDigits 16 hexDigit acc (hexText n w) = some (acc * 16 ^ n + w.toNat % 16 ^ n) := by
  induction n generalizing acc with
  | zero => simp [hexText, readDigits, Nat.mod_one]
  | succ n ih =>
    rw [hexText, readDigits_cons (hexDigit_hexChar _), ih, toNat_hexGroup, Nat.mod_pow_succ, Nat.pow_succ]
    congr 1
    ring

/-- `0x` and the lowest `n` digits of a word, as a literal. -/
abbrev hexLiteral (n : Nat) (w : Word) : List Char := '0' :: 'x' :: hexText n w

theorem readLiteral_hexLiteral {n : Nat} (hn : 0 < n) (w : Word) :
    readLiteral (hexLiteral n w) = some (w.toNat % 16 ^ n) := by
  obtain ⟨k, rfl⟩ := Nat.exists_eq_succ_of_ne_zero hn.ne'
  exact (readDigits_hexText (k + 1) w 0).trans (by rw [Nat.zero_mul, Nat.zero_add])

theorem hexLiteral_isText (n : Nat) (w : Word) : ∀ c ∈ hexLiteral n w, isText c :=
  List.forall_mem_cons.mpr ⟨by decide, List.forall_mem_cons.mpr ⟨by decide, hexText_isText n w⟩⟩

/-- A first part, a space and one more part: both are read as they stand, the first in capitals. -/
theorem readLine_two_parts {a lit : List Char} (ha : ∀ c ∈ a, isText c) (hne : a ≠ []) (hlit : ∀ c ∈ lit, isText c)
    (hlne : lit ≠ []) : readLine (a ++ ' ' :: lit) = readParts (a.map capital) lit := by
  have hcomment : dropComment (' ' :: lit) = ' ' :: lit := by
    have hnone : ∀ c ∈ ' ' :: lit, c ≠ ';' :=
      List.forall_mem_cons.mpr ⟨by decide, fun c hc => ne_semicolon_of_isText (hlit c hc)⟩
    simpa [dropComment] using dropComment_append hnone []
  have hlast : (' ' :: lit).rdropWhile isGap = ' ' :: lit := by
    refine List.rdropWhile_eq_self_iff.mpr fun h => ?_
    rw [List.getLast_cons hlne]
    simp [isGap_of_isText (hlit _ (List.getLast_mem hlne))]
  have htrim : trimGaps (' ' :: lit) = lit := by
    have hfirst := dropWhile_isGap_of_isText hlit hlne []
    have hend := rdropWhile_isGap_append hlit []
    rw [List.append_nil] at hfirst
    simpa [trimGaps_eq, List.dropWhile_cons_of_pos, isGap, hfirst] using hend
  have hread := readLine_of_first_part (gap := []) nofun ha hne (rest := ' ' :: lit) (by simp)
  rwa [List.nil_append, hcomment, hlast, htrim] at hread

/-- A mnemonic and a hexadecimal operand, as the disassembler prints them. -/
theorem assembleText_mnemonic_hexLiteral (m : Mnemonic) {n : Nat} (hn : 0 < n) (w : Word) :
    assembleText (mnemonicText m ++ ' ' :: hexLiteral n w) = assemble (.command m (some (w.toNat % 16 ^ n))) := by
  rw [assembleText, readLine_two_parts (mnemonicText_isText m) (mnemonicText_ne_nil m) (hexLiteral_isText n w)
      (List.cons_ne_nil _ _),
    mnemonicText_map_capital, readParts_mnemonic_operand m (List.cons_ne_nil _ _), readLiteral_hexLiteral hn]
  rfl

/-! ### The disassembler, one equation per kind of word -/

theorem disassemble_start {w : Word} {n : Half} (h : decode w = .ok (.start n)) :
    disassemble w = mnemonicText .start ++ ' ' :: hexLiteral 4 (n.setWidth 32) := by simp [disassemble, h]

theorem disassemble_push {w : Word} {v : Byte} (h : decode w = .ok (.push v)) :
    disassemble w = mnemonicText .push ++ ' ' :: hexLiteral 2 (v.setWidth 32) := by simp [disassemble, h]

/-- A command without an operand is printed as its mnemonic. -/
theorem disassemble_plain {w : Word} {i : Instr} (h : decode w = .ok i) (hstart : i.mnemonic ≠ .start)
    (hpush : i.mnemonic ≠ .push) : disassemble w = mnemonicText i.mnemonic := by
  cases i with
  | start _ => exact absurd rfl hstart
  | push _ => exact absurd rfl hpush
  | nop | abort | clrerr | rdstat | rdacc | rdchk | rdcnt | rdlen | rderrw => simp [disassemble, h]

theorem disassemble_illegal {w : Word} {why : Illegal} (h : decode w = .error why) :
    disassemble w = ['.', 'w', 'o', 'r', 'd'] ++ ' ' :: hexLiteral 8 w := by simp [disassemble, h]

theorem commandOf_mnemonic {i : Instr} (hstart : i.mnemonic ≠ .start) (hpush : i.mnemonic ≠ .push) (v : Nat) :
    commandOf i.mnemonic v = i := by
  cases i with
  | start _ => exact absurd rfl hstart
  | push _ => exact absurd rfl hpush
  | nop | abort | clrerr | rdstat | rdacc | rdchk | rdcnt | rdlen | rderrw => rfl

/-! ### Reading back what was printed -/

theorem assembleText_disassemble_start {w : Word} {n : Half} (h : decode w = .ok (.start n)) :
    assembleText (disassemble w) = some [w] := by
  have hn : (n.setWidth 32).toNat % 16 ^ 4 = n.toNat := by
    rw [BitVec.toNat_setWidth]
    omega
  rw [disassemble_start h, assembleText_mnemonic_hexLiteral .start (by decide), hn,
    assemble_start (Nat.le_of_lt_succ n.isLt), BitVec.ofNat_toNat, BitVec.setWidth_eq, encode_of_decode h]

theorem assembleText_disassemble_push {w : Word} {v : Byte} (h : decode w = .ok (.push v)) :
    assembleText (disassemble w) = some [w] := by
  have hv : (v.setWidth 32).toNat % 16 ^ 2 = v.toNat := by
    rw [BitVec.toNat_setWidth]
    omega
  rw [disassemble_push h, assembleText_mnemonic_hexLiteral .push (by decide), hv,
    assemble_push (Nat.le_of_lt_succ v.isLt), BitVec.ofNat_toNat, BitVec.setWidth_eq, encode_of_decode h]

theorem assembleText_disassemble_plain {w : Word} {i : Instr} (h : decode w = .ok i) (hstart : i.mnemonic ≠ .start)
    (hpush : i.mnemonic ≠ .push) : assembleText (disassemble w) = some [w] := by
  obtain ⟨-, hmnemonic, -⟩ := sourceTextCommentsAndCase
  rw [disassemble_plain h hstart hpush, assembleText, hmnemonic _ _ (mnemonicText_map_capital _), Option.bind_some,
    assemble_plain hstart hpush, commandOf_mnemonic hstart hpush, encode_of_decode h]

theorem assembleText_disassemble_illegal {w : Word} {why : Illegal} (h : decode w = .error why) :
    assembleText (disassemble w) = some [w] := by
  have hw : w.toNat % 16 ^ 8 = w.toNat := Nat.mod_eq_of_lt w.isLt
  have hfits : (SourceLine.word w.toNat).wellFormed = true := decide_eq_true w.isLt
  have hread : readLine (['.', 'w', 'o', 'r', 'd'] ++ ' ' :: hexLiteral 8 w) =
      (readLiteral (hexLiteral 8 w)).map .word :=
    readLine_two_parts (by simp [isText]) nofun (hexLiteral_isText 8 w) (List.cons_ne_nil _ _)
  rw [disassemble_illegal h, assembleText, hread, readLiteral_hexLiteral (by decide), hw, Option.map_some,
    Option.bind_some, assemble_of_wellFormed hfits, lineWords, BitVec.ofNat_toNat, BitVec.setWidth_eq]

end Sys2Proof.Machine
end

section
/-! PROOFS. The statement of 30_encoding.md R63 about the disassembler. -/

namespace Sys2Proof.Machine

/-- Settles O52: `START` and `PUSH` are printed with their operand's digits, the other commands as their mnemonic, an illegal
word with its eight digits, and each is read back. -/
theorem disassembledTextAssemblesToTheWord : Obligations.DisassembledTextAssemblesToTheWord := by
  refine ⟨fun w => ?back, fun w why h => ⟨disassemble_illegal h, length_hexText 8 w⟩⟩
  cases hd : decode w with
  | error why => exact assembleText_disassemble_illegal hd
  | ok i =>
    cases i with
    | start n => exact assembleText_disassemble_start hd
    | push v => exact assembleText_disassemble_push hd
    | nop | abort | clrerr | rdstat | rdacc | rdchk | rdcnt | rdlen | rderrw =>
      exact assembleText_disassemble_plain hd nofun nofun

end Sys2Proof.Machine
end
